-- ==== Sys2Proof/Word.lean ====
section
/-! DEFINITION. The words of the block: 8-bit characters and bytes, 16-bit lengths, 32-bit command and bus words
(00_scope.md R9, R10). Every value is unsigned. -/

namespace Sys2Proof

/-- A byte of a buffer, or an 8-bit character code (R10). -/
abbrev Byte := BitVec 8

/-- A 16-bit value: RESULT, DECL_LEN, F_BYTECOUNT (10_state.md R33, R34, R36). -/
abbrev Half := BitVec 16

/-- A 32-bit value: a command word, or the data of a bus transaction (30_encoding.md R90, 20_memory.md R60). -/
abbrev Word := BitVec 32

end Sys2Proof
end

