-- ==== Sys2Proof/Syntax.lean ====
section
/-! DEFINITION. The commands of the block, one constructor for each row of the opcode table, in the table's order
(30_encoding.md R93). A word that spells no row is no command: the decoder rejects it by name (R94). -/

namespace Sys2Proof

/-- A command with its operands. ARG0 and ARG1 are 8-bit unsigned immediates (30_encoding.md R92). -/
inductive Instr where
  /-- complete without effect (44_control.md R180) -/
  | nop
  /-- pack the field registers into PACKED (40_packer.md R115) -/
  | pack
  /-- unpack PACKED into the field registers (40_packer.md R116) -/
  | unpack
  /-- compute the checksum (41_checksum.md R132) -/
  | cksum
  /-- compare a claimed checksum, ARG0 (41_checksum.md R133) -/
  | validate (claimed : Byte)
  /-- render the message as a frame in TEXT (42_hex_codec.md R146) -/
  | encode
  /-- parse and check the frame in TEXT (42_hex_codec.md R147) -/
  | decode
  /-- predict a frame's length (43_frame_sizer.md R172) -/
  | framelen
  /-- set the message state to zero (40_packer.md R117) -/
  | clear
  /-- test whether the character ARG0 is the start marker (42_hex_codec.md R152) -/
  | ismark (char : Byte)
  /-- convert two hex characters, ARG0 the high and ARG1 the low nibble (42_hex_codec.md R150) -/
  | h2b (hi lo : Byte)
  /-- convert the byte ARG0 to two hex characters (42_hex_codec.md R151) -/
  | b2h (byte : Byte)
deriving DecidableEq, Repr

/-- The mnemonic of a command, as the opcode table spells it (30_encoding.md R93). -/
def Instr.mnemonic : Instr → String
  | .nop => "NOP"
  | .pack => "PACK"
  | .unpack => "UNPACK"
  | .cksum => "CKSUM"
  | .validate _ => "VALIDATE"
  | .encode => "ENCODE"
  | .decode => "DECODE"
  | .framelen => "FRAMELEN"
  | .clear => "CLEAR"
  | .ismark _ => "ISMARK"
  | .h2b _ _ => "H2B"
  | .b2h _ => "B2H"

end Sys2Proof
end

