-- ==== Sys2Proof/WellFormed.lean ====
section
/-! DEFINITION. Which command words are legal, written from the match and mask table (30_encoding.md R93) and from
the three cases of an illegal word (R94), apart from the decoder. A term of `Instr` has no check of its own: an
operand is a `Byte`, and the encoding admits every byte there (R98, "each operand is 0..255"). -/

namespace Sys2Proof

/-- A row of the opcode map: a word `w` spells the command when `w & mask = pattern` (30_encoding.md R93). -/
structure CommandRow where
  mnemonic : String
  pattern : Word
  mask : Word
deriving DecidableEq, Repr

/-- The opcode map (30_encoding.md R93). -/
def commandRows : List CommandRow :=
  [ ⟨"NOP", 0x00000000#32, 0xFFFFFFFF#32⟩,
    ⟨"PACK", 0x00000001#32, 0xFFFFFFFF#32⟩,
    ⟨"UNPACK", 0x00000002#32, 0xFFFFFFFF#32⟩,
    ⟨"CKSUM", 0x00000003#32, 0xFFFFFFFF#32⟩,
    ⟨"VALIDATE", 0x00000004#32, 0xFFFF00FF#32⟩,
    ⟨"ENCODE", 0x00000005#32, 0xFFFFFFFF#32⟩,
    ⟨"DECODE", 0x00000006#32, 0xFFFFFFFF#32⟩,
    ⟨"FRAMELEN", 0x00000007#32, 0xFFFFFFFF#32⟩,
    ⟨"CLEAR", 0x00000008#32, 0xFFFFFFFF#32⟩,
    ⟨"ISMARK", 0x00000009#32, 0xFFFF00FF#32⟩,
    ⟨"H2B", 0x0000000A#32, 0xFF0000FF#32⟩,
    ⟨"B2H", 0x0000000B#32, 0xFFFF00FF#32⟩ ]

/-- The word spells the row's command (30_encoding.md R93). -/
def CommandRow.spells (r : CommandRow) (w : Word) : Bool := w &&& r.mask == r.pattern

/-- Check 1 of a legal word: OPC, bits 7:0, is in 0x00..0x0B (30_encoding.md R94, first case). -/
def opcodeAssigned (w : Word) : Bool := decide (w.toNat % 256 ≤ 0x0B)

/-- Check 2 of a legal word: RSV, bits 31:24, is 0 (30_encoding.md R94, second case). -/
def reservedClear (w : Word) : Bool := decide (w.toNat / 2 ^ 24 = 0)

/-- Check 3 of a legal word: a field the opcode does not use is 0 (30_encoding.md R94, third case; the ARG0 and
ARG1 columns of R93). An opcode outside the table uses neither field. -/
def unusedClear (w : Word) : Bool :=
  let opc := w.toNat % 256
  let arg0 := w.toNat / 2 ^ 8 % 256
  let arg1 := w.toNat / 2 ^ 16 % 256
  (opc == 0x04 || opc == 0x09 || opc == 0x0A || opc == 0x0B || arg0 == 0) && (opc == 0x0A || arg1 == 0)

/-- A legal command word: none of the three cases of 30_encoding.md R94 holds. -/
def wordWellFormed (w : Word) : Bool := opcodeAssigned w && reservedClear w && unusedClear w

end Sys2Proof
end

