-- ==== Sys2Proof/Decode.lean ====
section
/-! DEFINITION. The decoder, total on 32-bit words (30_encoding.md R96), and after it the encoder (R98). A command is
exactly one word (R91); the block fetches nothing, so no byte order enters here (10_state.md R53). -/

namespace Sys2Proof

/-- Why a word spells no command: the three cases of 30_encoding.md R94. Raised by `decode`; the engine then
completes the word with IllegalCommand (44_control.md R181). -/
inductive Illegal where
  /-- OPC is in 0x0C..0xFF -/
  | reservedOpcode (opc : Byte)
  /-- RSV is not 0 -/
  | reservedBits (rsv : Byte)
  /-- a field the command does not use is not 0 -/
  | unusedOperand (opc : Byte)
deriving DecidableEq, Repr

/-- OPC, bits 7:0 of a command word (30_encoding.md R90). -/
def opcOf (w : Word) : Byte := w.extractLsb' 0 8

/-- ARG0, bits 15:8 (30_encoding.md R90, R92). -/
def arg0Of (w : Word) : Byte := w.extractLsb' 8 8

/-- ARG1, bits 23:16 (30_encoding.md R90, R92). -/
def arg1Of (w : Word) : Byte := w.extractLsb' 16 8

/-- RSV, bits 31:24 (30_encoding.md R90). -/
def rsvOf (w : Word) : Byte := w.extractLsb' 24 8

/-- A command without operands: ARG0 and ARG1 must be 0 (30_encoding.md R96). -/
def decodeNoOperand (w : Word) (i : Instr) : Except Illegal Instr :=
  if arg0Of w = 0 ∧ arg1Of w = 0 then .ok i else .error (.unusedOperand (opcOf w))

/-- A command whose operand is ARG0: ARG1 must be 0 (30_encoding.md R96). -/
def decodeArg0 (w : Word) (i : Instr) : Except Illegal Instr :=
  if arg1Of w = 0 then .ok i else .error (.unusedOperand (opcOf w))

/-- The engine's decoder of PENDING (30_encoding.md R96). -/
def decode (w : Word) : Except Illegal Instr :=
  if rsvOf w ≠ 0 then .error (.reservedBits (rsvOf w))
  else
    match (opcOf w).toNat with
    | 0x00 => decodeNoOperand w .nop
    | 0x01 => decodeNoOperand w .pack
    | 0x02 => decodeNoOperand w .unpack
    | 0x03 => decodeNoOperand w .cksum
    | 0x04 => decodeArg0 w (.validate (arg0Of w))
    | 0x05 => decodeNoOperand w .encode
    | 0x06 => decodeNoOperand w .decode
    | 0x07 => decodeNoOperand w .framelen
    | 0x08 => decodeNoOperand w .clear
    | 0x09 => decodeArg0 w (.ismark (arg0Of w))
    | 0x0A => .ok (.h2b (arg0Of w) (arg1Of w))
    | 0x0B => decodeArg0 w (.b2h (arg0Of w))
    | _ => .error (.reservedOpcode (opcOf w))

/-- The encoder of the assembler syntax (30_encoding.md R98). -/
def encode : Instr → Word
  | .nop => 0x00000000#32
  | .pack => 0x00000001#32
  | .unpack => 0x00000002#32
  | .cksum => 0x00000003#32
  | .validate b => 0x00000004#32 ||| (b.setWidth 32 <<< 8)
  | .encode => 0x00000005#32
  | .decode => 0x00000006#32
  | .framelen => 0x00000007#32
  | .clear => 0x00000008#32
  | .ismark c => 0x00000009#32 ||| (c.setWidth 32 <<< 8)
  | .h2b hi lo => 0x0000000A#32 ||| (hi.setWidth 32 <<< 8) ||| (lo.setWidth 32 <<< 16)
  | .b2h b => 0x0000000B#32 ||| (b.setWidth 32 <<< 8)

/-- The command word whose `nbits` low bits are `w` and whose bits above are 0, the one word of a command
(30_encoding.md R90, R91). -/
def wordOfTable (nbits w : Nat) : Word := (BitVec.ofNat nbits w).setWidth 32

/-- The command the decoder reads from a row's word, numbered as the opcode table numbers it; none for an illegal
word. -/
def decodeTableWord (nbits w : Nat) : Option Instr :=
  match decode (wordOfTable nbits w) with
  | .ok i => some i
  | .error _ => none

end Sys2Proof
end

