-- ==== Sys2Proof/Config.lean ====
section
/-! DEFINITION. The block's parameters and constants (00_scope.md R8), the field layout table (40_packer.md R110), and
the free values: opaque constants, so that no proof can see what they are. -/

namespace Sys2Proof

/-- MARKER, the start-marker character `:` (00_scope.md R8). DESIGN CHOICE, log entry 10: fixed, although the spec
lets a model take it as an argument. -/
def Config.marker : Byte := 0x3A#8

/-- REQUEST_CLASS, the one enumeration value the block interprets (00_scope.md R8, 40_packer.md R120). -/
def Config.requestClass : Nat := 0

/-- M, the number of metadata bytes (00_scope.md R8). -/
def Config.mBytes : Nat := 5

/-- MAX_PAYLOAD (00_scope.md R8). -/
def Config.maxPayload : Nat := 255

/-- MIN_FRAME_LEN (43_frame_sizer.md R170). -/
def Config.minFrameLen : Nat := 15

/-- MAX_FRAME_LEN (43_frame_sizer.md R171). -/
def Config.maxFrameLen : Nat := 525

/-- TEXT_CAP, the bytes of the TEXT buffer (00_scope.md R8). -/
def Config.textCap : Nat := 528

/-- The size of the host window (00_scope.md R8). -/
def Config.windowSize : Nat := 2048

/-- ID (10_state.md R23). -/
def Config.idValue : Word := 0x534D4F53#32

/-- PARAM: MARKER in 7:0, M in 15:8, MAX_PAYLOAD in 23:16, 0 above (10_state.md R24). -/
def Config.paramValue : Word :=
  0x00#8 ++ BitVec.ofNat 8 Config.maxPayload ++ BitVec.ofNat 8 Config.mBytes ++ Config.marker

/-- FRAMELIM: MIN_FRAME_LEN in 15:0, MAX_FRAME_LEN in 31:16 (10_state.md R25). -/
def Config.frameLimValue : Word := BitVec.ofNat 16 Config.maxFrameLen ++ BitVec.ofNat 16 Config.minFrameLen

/-- The names of the fields that are packed (40_packer.md R110). -/
inductive FieldName where
  | byteCount | version | context | lastBlock | blockSeq | codeClass | codeDetail | msgId | obsFlag | obsIdx | resIdx
deriving DecidableEq, Repr

/-- A row of the field layout: which packed byte, which bit offset, which width (40_packer.md R110). -/
structure FieldSlot where
  name : FieldName
  byte : Nat
  offset : Nat
  width : Nat
deriving DecidableEq, Repr

/-- The mask column: the field's bits in its byte (40_packer.md R110). -/
def FieldSlot.mask (r : FieldSlot) : Nat := (2 ^ r.width - 1) * 2 ^ r.offset

/-- The field layout table (40_packer.md R110). -/
def Config.fieldLayout : List FieldSlot :=
  [ ⟨.byteCount, 0, 0, 8⟩,
    ⟨.version, 1, 6, 2⟩, ⟨.context, 1, 4, 2⟩, ⟨.lastBlock, 1, 3, 1⟩, ⟨.blockSeq, 1, 0, 3⟩,
    ⟨.codeClass, 2, 5, 3⟩, ⟨.codeDetail, 2, 0, 5⟩,
    ⟨.msgId, 3, 0, 8⟩,
    ⟨.obsFlag, 4, 7, 1⟩, ⟨.obsIdx, 4, 0, 7⟩,
    ⟨.resIdx, 5, 0, 8⟩ ]

/-- BASE, the bus address of offset 0: OPEN, the platform's (00_scope.md R8, 93_implementation_defined.md U17). -/
opaque Config.base : Nat

/-- FREE VALUE (log entry 3): the byte that the buffer offset holds after a reset until it is written; the first
argument counts the resets, the second is the offset (70_reset_and_hazards.md R241). -/
opaque Config.unspecifiedByte : Nat → Nat → BitVec 8

/-- FREE VALUE (log entry 5): the data of a host read that 70_reset_and_hazards.md R246 leaves unspecified; the
argument counts the draws. -/
opaque Config.busyRead : Nat → BitVec 32

/-- FREE VALUE (log entry 2): how many inputs are served at most between a command's acceptance and its perform
step; the argument counts the draws (20_memory.md R76, 70_reset_and_hazards.md R248). -/
opaque Config.transactionsBeforePerform : Nat → Nat

end Sys2Proof
end

