-- ==== Sys2Proof/Machine/State.lean ====
section
/-! DEFINITION. The state of the block (10_state.md R20), the model's own fields for the host's pending inputs, and
the state after reset (70_reset_and_hazards.md R240). -/

namespace Sys2Proof.Machine

/-- Faults. There is no constructor: no command traps, halts the block or leaves it stuck (60_exceptions.md R200), and
the bus ERROR, the only fault the host interface signals (R204), is a response that the host sees, with a next state.
Nobody raises a fault, so the type is safe (log entry 15). -/
inductive Fault where
deriving DecidableEq, Repr

/-- Refusals: the model has no meaning to give. -/
inductive Refusal where
  /-- Raised by `exec`'s arm of a command that has no meaning yet; no arm raises it, since every command is
  modelled. Safe. -/
  | notModelled (mnemonic : String)
deriving DecidableEq, Repr

/-- What waits to act on the block from outside (00_scope.md R7). Addresses are byte offsets from BASE
(20_memory.md R60). -/
inductive HostOp where
  /-- `MemRead(addr, n)` -/
  | read (addr n : Nat)
  /-- `MemWrite(addr, n, v)` -/
  | write (addr n : Nat) (v : Word)
  /-- the POLL loop: read STATUS until bit 0 of the data is 0 (30_encoding.md R97) -/
  | poll
  /-- the reset event (70_reset_and_hazards.md R240) -/
  | reset
deriving DecidableEq, Repr

/-- The response code of a bus transaction (20_memory.md R60). -/
inductive Resp where
  | okay
  | error
deriving DecidableEq, Repr

/-- A bus response: the code, and the read data (0 for a write and for an ERROR, 20_memory.md R66). -/
structure BusResponse where
  resp : Resp
  data : Word
deriving DecidableEq, Repr

/-- The RW field registers but F_CHECKSUM, at their stored widths (10_state.md R35 to R47). F_CODETAG is computed, not
stored (R43). -/
structure Fields where
  byteCount : Half
  version : Byte
  context : Byte
  lastBlock : Byte
  blockSeq : Byte
  codeClass : Byte
  codeDetail : Byte
  msgId : Byte
  obsFlag : Byte
  obsIdx : Byte
  resIdx : Byte
deriving DecidableEq, Repr

/-- The field registers of the all-zero message (40_packer.md R118). -/
def Fields.zero : Fields := ⟨0, 0, 0, 0, 0, 0, 0, 0, 0, 0, 0⟩

/-- The bytes of the buffers that have been written since reset, by offset from BASE, in one canonical form
(`Memory.wf` in Machine/Ops.lean; log entry 4). -/
abbrev Memory := List Host.Cell

/-- The state of the block. The last five fields are the model's own. -/
structure State where
  /-- CTRL.IE (10_state.md R26) -/
  ie : Bool
  /-- STATUS.BUSY (R28) -/
  busy : Bool
  /-- STATUS.DONE (R29) -/
  done : Bool
  /-- STATUS.WERR (R30) -/
  werr : Bool
  /-- STATUS.ERR (R31) -/
  err : BitVec 4
  /-- CMD (R32) -/
  cmd : Word
  /-- RESULT[15:0] (R33) -/
  result : Half
  /-- DECL_LEN[15:0] (R34) -/
  declLen : Half
  /-- the RW field registers but F_CHECKSUM (R35) -/
  fields : Fields
  /-- F_CHECKSUM (R48) -/
  checksum : Byte
  /-- PACKED, PAYLOAD and TEXT (R49 to R51) -/
  mem : Memory
  /-- PENDING (R52) -/
  pending : Word
  /-- MODEL: the inputs not served yet, oldest first (log entry 1) -/
  inputs : List HostOp
  /-- MODEL: the response of the last bus transaction (log entry 9) -/
  response : Option BusResponse
  /-- MODEL: how many more inputs may be served before the perform step (log entry 2) -/
  wait : Nat
  /-- MODEL: how many free values have been drawn (log entry 5) -/
  draws : Nat
  /-- MODEL: how many resets there have been (log entry 3) -/
  epoch : Nat
deriving DecidableEq, Repr

/-- The block right after reset (70_reset_and_hazards.md R240, R241, R243): every register at its value of
10_state.md R22, no buffer byte written, no command in flight, and nothing for the block to do. PENDING is discarded:
0 is a DESIGN CHOICE (log entry 7). The model's own fields: log entries 1, 9 and 17. -/
def State.reset : State where
  ie := false
  busy := false
  done := false
  werr := false
  err := 0
  cmd := 0
  result := 0
  declLen := 0
  fields := Fields.zero
  checksum := 0
  mem := []
  pending := 0
  inputs := []
  response := none
  wait := 0
  draws := 0
  epoch := 0

end Sys2Proof.Machine
end

