-- ==== Sys2Proof/Machine/Flags.lean ====
section
/-! DEFINITION. STATUS and its fields, the error codes, and the IRQ output (10_state.md R27 to R31, R55, R56;
60_exceptions.md R201). The block has no carry, zero, overflow or sign flag (10_state.md R56). -/

namespace Sys2Proof.Machine

/-- The error names of 60_exceptions.md R201. InvalidReference and EncodingFailed have codes but are never recorded
(R203, log entry 14). -/
inductive ErrorCode where
  | invalidReference
  | payloadTooLarge
  | encodingFailed
  | frameTooShort
  | frameIncomplete
  | invalidStartMarker
  | checksumMismatch
  | invalidHexDigit
  | illegalCommand
deriving DecidableEq, Repr

/-- The code of an error name (60_exceptions.md R201). Code 0 is success. -/
def ErrorCode.code : ErrorCode → BitVec 4
  | .invalidReference => 1
  | .payloadTooLarge => 2
  | .encodingFailed => 3
  | .frameTooShort => 4
  | .frameIncomplete => 5
  | .invalidStartMarker => 6
  | .checksumMismatch => 7
  | .invalidHexDigit => 8
  | .illegalCommand => 9

/-- STATUS as the host reads it: BUSY 0, DONE 1, WERR 2, ERR 11:8, the reserved bits 0 (10_state.md R27). -/
def statusWord (s : State) : Word :=
  0#20 ++ s.err ++ 0#5 ++ BitVec.ofBool s.werr ++ BitVec.ofBool s.done ++ BitVec.ofBool s.busy

/-- CTRL as the host reads it: IE in bit 0, the reserved bits 0 (10_state.md R26). -/
def ctrlWord (s : State) : Word := 0#31 ++ BitVec.ofBool s.ie

/-- A host write of CTRL stores IE from bit 0 (10_state.md R26). -/
def writeCtrl (v : Word) (s : State) : State := { s with ie := v.getLsbD 0 }

/-- A host write of STATUS: write 1 to clear DONE (bit 1) and WERR (bit 2); nothing else changes (10_state.md R27). -/
def writeStatus (v : Word) (s : State) : State :=
  { s with done := s.done && !v.getLsbD 1, werr := s.werr && !v.getLsbD 2 }

/-- A dropped host write sets WERR (10_state.md R30, 70_reset_and_hazards.md R245). -/
def dropWrite (s : State) : State := { s with werr := true }

/-- The interrupt output, a level (10_state.md R55, 60_exceptions.md R210). -/
def irq (s : State) : Bool := s.done && s.ie

end Sys2Proof.Machine
end

