-- ==== Sys2Proof/Machine/Ops.lean ====
section
/-! DEFINITION. The named operations over the buffers and registers: one byte, several bytes and a word of a buffer,
the acceptance of a command, its completion (with or without an error: the block's one form of exception,
60_exceptions.md R205), the clear of the message state, and the reset. -/

namespace Sys2Proof.Machine

/-! ### The buffers as memory -/

/-- The offset of PACKED[i] (20_memory.md R73). -/
def packedAddr (i : Nat) : Nat := 0x080 + i

/-- The offset of PAYLOAD[i] (20_memory.md R73). -/
def payloadAddr (i : Nat) : Nat := 0x100 + i

/-- The offset of TEXT[i] (20_memory.md R73). -/
def textAddr (i : Nat) : Nat := 0x400 + i

/-- The storage bytes of PACKED: 0..5 (10_state.md R49). -/
def isPackedByte (a : Nat) : Bool := decide (0x080 ≤ a ∧ a < 0x086)

/-- The storage bytes of PAYLOAD: 0..254 (10_state.md R50). -/
def isPayloadByte (a : Nat) : Bool := decide (0x100 ≤ a ∧ a < 0x1FF)

/-- The storage bytes of TEXT: 0..527 (10_state.md R51). -/
def isTextByte (a : Nat) : Bool := decide (0x400 ≤ a ∧ a < 0x610)

/-- The offsets that hold a byte. The other bytes of the buffers, PACKED[6..7] and PAYLOAD[255], are RAZ/WI and have
no storage (10_state.md R49, R50). -/
def isStorage (a : Nat) : Bool := isPackedByte a || isPayloadByte a || isTextByte a

/-- What an unlisted offset holds: no value where the spec leaves the reset contents unspecified (PAYLOAD and TEXT,
70_reset_and_hazards.md R241), and 0 elsewhere (PACKED, R240; the RAZ/WI bytes). Log entries 3 and 4. -/
def Memory.unlisted (a : Nat) : Option Byte := if isPayloadByte a || isTextByte a then none else some 0

/-- The listed byte of an offset. -/
def Memory.find : Memory → Nat → Option Byte
  | [], _ => none
  | (a, b) :: m, x => if a = x then some b else Memory.find m x

/-- List the byte `b` at the offset `x`, in rising order. -/
def Memory.insert : Memory → Nat → Byte → Memory
  | [], x, b => [(x, b)]
  | (a, c) :: m, x, b =>
    if x < a then (x, b) :: (a, c) :: m
    else if a = x then (x, b) :: m
    else (a, c) :: Memory.insert m x b

/-- Unlist the offset `x`. -/
def Memory.erase : Memory → Nat → Memory
  | [], _ => []
  | (a, c) :: m, x => if a = x then Memory.erase m x else (a, c) :: Memory.erase m x

/-- Write one byte. An offset without storage ignores the write (10_state.md R49, R50); a write of what the
unlisted offset holds unlists it, so that equal memories are equal data. -/
def Memory.write (m : Memory) (a : Nat) (b : Byte) : Memory :=
  if isStorage a then
    if Memory.unlisted a = some b then Memory.erase m a else Memory.insert m a b
  else m

/-- The byte of an offset, none where nothing has written it since reset and the spec gives it no value. An offset
without storage reads 0 (10_state.md R49, R50). -/
def Memory.read? (m : Memory) (a : Nat) : Option Byte :=
  if isStorage a then
    match Memory.find m a with
    | some b => some b
    | none => Memory.unlisted a
  else some 0

/-- Write bytes at rising offsets. -/
def Memory.writeBytes (m : Memory) (a : Nat) : List Byte → Memory
  | [] => m
  | b :: bs => Memory.write (Memory.writeBytes m (a + 1) bs) a b

/-- The canonical form: offsets strictly rising, each with storage, and no byte that the unlisted offset would hold
anyway (log entry 4). -/
def Memory.wf : Memory → Bool
  | [] => true
  | (a, b) :: m =>
    isStorage a && decide (Memory.unlisted a ≠ some b) && m.all (fun c => decide (a < c.1)) && Memory.wf m

/-- One byte of a buffer. A byte that nothing has written since reset, and that the spec gives no value, is a free
value: the same on every read until it is written (70_reset_and_hazards.md R241, log entry 3). -/
def loadByte (s : State) (a : Nat) : Byte :=
  match Memory.read? s.mem a with
  | some b => b
  | none => Config.unspecifiedByte s.epoch a

/-- `n` bytes at rising offsets from `a`. -/
def loadBytes (s : State) (a : Nat) : Nat → List Byte
  | 0 => []
  | n + 1 => loadByte s a :: loadBytes s (a + 1) n

/-- Write one byte of a buffer. -/
def storeByte (a : Nat) (b : Byte) (s : State) : State := { s with mem := Memory.write s.mem a b }

/-- Write bytes of a buffer at rising offsets from `a`. -/
def storeBytes (a : Nat) (bs : List Byte) (s : State) : State := { s with mem := Memory.writeBytes s.mem a bs }

/-- A little-endian word of four bytes, the first the lowest (20_memory.md R67). -/
def wordOfBytes (b0 b1 b2 b3 : Byte) : Word := b3 ++ b2 ++ b1 ++ b0

/-- The four bytes of a word, the lowest first (20_memory.md R67). -/
def bytesOfWord (v : Word) : List Byte :=
  [v.extractLsb' 0 8, v.extractLsb' 8 8, v.extractLsb' 16 8, v.extractLsb' 24 8]

/-- A word read of a buffer (20_memory.md R67). -/
def loadWord (s : State) (a : Nat) : Word :=
  wordOfBytes (loadByte s a) (loadByte s (a + 1)) (loadByte s (a + 2)) (loadByte s (a + 3))

/-- A word write of a buffer (20_memory.md R67). -/
def storeWord (a : Nat) (v : Word) (s : State) : State := storeBytes a (bytesOfWord v) s

/-! ### A command's life -/

/-- A word write of CMD while idle accepts a command (10_state.md R32). How many inputs are served before the perform
step is a free value (20_memory.md R76, log entry 2). -/
def acceptCommand (w : Word) (s : State) : State :=
  { s with
    cmd := w
    pending := w
    busy := true
    done := false
    wait := Config.transactionsBeforePerform s.draws
    draws := s.draws + 1 }

/-- `complete(E, r)`, the end of the running command (60_exceptions.md R205). -/
def complete (e : BitVec 4) (r : Half) (s : State) : State :=
  { s with
    err := e
    result := if e = 0 then r else 0
    done := true
    busy := false }

/-- A command that succeeds with the value `r` (60_exceptions.md R205). -/
def succeed (r : Half) (s : State) : State := complete 0 r s

/-- `raise E` inside a command's rule: the one form of exception. It saves nothing, changes no mode and redirects
nothing (60_exceptions.md R200, R205, R206). -/
def raise (e : ErrorCode) (s : State) : State := complete e.code 0 s

/-- What the host does to return from the completion interrupt: a write of STATUS that clears DONE. Nothing is
restored (60_exceptions.md R211, R212). -/
def acknowledge (s : State) : State := writeStatus 0x00000002#32 s

/-! ### The message state and the reset -/

/-- `n` bytes of 0. -/
def zeroBytes : Nat → List Byte
  | 0 => []
  | n + 1 => 0 :: zeroBytes n

/-- PACKED[0..5] and PAYLOAD[0..254] at 0 (40_packer.md R118). -/
def Memory.clearMessage (m : Memory) : Memory :=
  Memory.writeBytes (Memory.writeBytes m (packedAddr 0) (zeroBytes (Config.mBytes + 1))) (payloadAddr 0)
    (zeroBytes Config.maxPayload)

/-- `clearMessage()` (40_packer.md R118). -/
def clearMessage (s : State) : State :=
  { s with fields := Fields.zero, checksum := 0, mem := Memory.clearMessage s.mem }

/-- The reset event (70_reset_and_hazards.md R240 to R242): every register at its reset value, the command in flight
abandoned, and new unspecified contents of PAYLOAD and TEXT. What the outside world still has to say stays. -/
def resetBlock (s : State) : State :=
  { State.reset with inputs := s.inputs, draws := s.draws, epoch := s.epoch + 1 }

end Sys2Proof.Machine
end

