-- ==== Sys2Proof/Machine/Operands.lean ====
section
/-! DEFINITION. The operand forms of the commands: the packed bytes and the field registers (40_packer.md R112 to
R114), the checksum (41_checksum.md R130, R131), and the hex digits and pairs of the text (42_hex_codec.md R140 to
R145). -/

namespace Sys2Proof.Machine

/-! ### Packed bytes -/

/-- The six packed bytes: the byte count and the five metadata bytes (00_scope.md R12, 40_packer.md R110). -/
structure Packed where
  p0 : Byte
  p1 : Byte
  p2 : Byte
  p3 : Byte
  p4 : Byte
  p5 : Byte
deriving DecidableEq, Repr

/-- The packed bytes in the order of PACKED (40_packer.md R110). -/
def Packed.toList (p : Packed) : List Byte := [p.p0, p.p1, p.p2, p.p3, p.p4, p.p5]

/-- The low `width` bits of a field register, as a byte: a value wider than its field is silently truncated
(40_packer.md R112). -/
def maskTo (width : Nat) (v : Byte) : Byte := v &&& BitVec.ofNat 8 (2 ^ width - 1)

/-- `packBytes()` (40_packer.md R112). -/
def packBytes (f : Fields) : Packed where
  p0 := f.byteCount.setWidth 8
  p1 := (maskTo 2 f.version <<< 6) ||| (maskTo 2 f.context <<< 4) ||| (maskTo 1 f.lastBlock <<< 3) ||| maskTo 3 f.blockSeq
  p2 := (maskTo 3 f.codeClass <<< 5) ||| maskTo 5 f.codeDetail
  p3 := f.msgId
  p4 := (maskTo 1 f.obsFlag <<< 7) ||| maskTo 7 f.obsIdx
  p5 := f.resIdx

/-- `unpackBytes(p)` (40_packer.md R113). -/
def unpackBytes (p : Packed) : Fields where
  byteCount := p.p0.setWidth 16
  version := maskTo 2 (p.p1 >>> 6)
  context := maskTo 2 (p.p1 >>> 4)
  lastBlock := maskTo 1 (p.p1 >>> 3)
  blockSeq := maskTo 3 p.p1
  codeClass := maskTo 3 (p.p2 >>> 5)
  codeDetail := maskTo 5 p.p2
  msgId := p.p3
  obsFlag := maskTo 1 (p.p4 >>> 7)
  obsIdx := maskTo 7 p.p4
  resIdx := p.p5

/-- PACKED[0..5] (10_state.md R49). -/
def loadPacked (s : State) : Packed where
  p0 := loadByte s (packedAddr 0)
  p1 := loadByte s (packedAddr 1)
  p2 := loadByte s (packedAddr 2)
  p3 := loadByte s (packedAddr 3)
  p4 := loadByte s (packedAddr 4)
  p5 := loadByte s (packedAddr 5)

/-- Write PACKED[0..5]. -/
def storePacked (p : Packed) (s : State) : State := storeBytes (packedAddr 0) p.toList s

/-- The code tag that F_CODETAG presents: 0 for the request class, else 1 (40_packer.md R114, 10_state.md R43). -/
def codeTag (f : Fields) : Bool := decide ((maskTo 3 f.codeClass).toNat ≠ Config.requestClass)

/-! ### Checksum -/

/-- `sum8`: the sum of bytes modulo 256 (41_checksum.md R130). -/
def sum8 : List Byte → Byte
  | [] => 0
  | b :: bs => b + sum8 bs

/-- `neg8`: the two's complement of a byte (41_checksum.md R130). -/
def neg8 (s : Byte) : Byte := ~~~s + 1

/-- The number of payload bytes, `F.BYTECOUNT[7:0]` (41_checksum.md R131, 42_hex_codec.md R146). -/
def payloadCount (s : State) : Nat := (s.fields.byteCount.setWidth 8).toNat

/-- The payload bytes of the message (10_state.md R50). -/
def payloadBytes (s : State) : List Byte := loadBytes s (payloadAddr 0) (payloadCount s)

/-- The checksum of packed bytes and a payload (41_checksum.md R131, 42_hex_codec.md R147). -/
def checksumOf (p : Packed) (q : List Byte) : Byte := neg8 (sum8 p.toList + sum8 q)

/-- `computeChecksum()` (41_checksum.md R131). -/
def computeChecksum (s : State) : Byte := checksumOf (packBytes s.fields) (payloadBytes s)

/-- The byte count is above MAX_PAYLOAD (41_checksum.md R132, R133; 42_hex_codec.md R146). -/
def payloadTooLarge (s : State) : Bool := decide (Config.maxPayload < s.fields.byteCount.toNat)

/-! ### Hex digits, pairs and frames -/

/-- `hexval(c)`: none for a character that is no hex digit (42_hex_codec.md R140). -/
def hexval (c : Byte) : Option (BitVec 4) :=
  if 0x30#8 ≤ c ∧ c ≤ 0x39#8 then some ((c - 0x30#8).setWidth 4)
  else if 0x41#8 ≤ c ∧ c ≤ 0x46#8 then some ((c - 0x41#8 + 10#8).setWidth 4)
  else if 0x61#8 ≤ c ∧ c ≤ 0x66#8 then some ((c - 0x61#8 + 10#8).setWidth 4)
  else none

/-- `hexchar(n)`: the upper-case hex digit (42_hex_codec.md R141). -/
def hexchar (n : BitVec 4) : Byte :=
  if n ≤ 9#4 then 0x30#8 + n.setWidth 8 else 0x41#8 + n.setWidth 8 - 10#8

/-- The high nibble of a byte, bits 7:4. -/
def highNibble (b : Byte) : BitVec 4 := b.extractLsb' 4 4

/-- The low nibble of a byte, bits 3:0. -/
def lowNibble (b : Byte) : BitVec 4 := b.extractLsb' 0 4

/-- Two characters as a byte, high nibble first (42_hex_codec.md R142, R150; 20_memory.md R69). -/
def hexPair (hi lo : Byte) : Except ErrorCode Byte :=
  match hexval hi, hexval lo with
  | some h, some l => .ok (h ++ l)
  | _, _ => .error .invalidHexDigit

/-- TEXT[i] (10_state.md R51). -/
def textChar (s : State) (i : Nat) : Byte := loadByte s (textAddr i)

/-- `parsePair(i)` (42_hex_codec.md R142). -/
def parsePair (s : State) (i : Nat) : Except ErrorCode Byte := hexPair (textChar s i) (textChar s (i + 1))

/-- `n` pairs from TEXT[i] on, in increasing index; the first invalid pair raises (42_hex_codec.md R147). -/
def parsePairs (s : State) (i : Nat) : Nat → Except ErrorCode (List Byte)
  | 0 => .ok []
  | n + 1 => do
    let b ← parsePair s i
    let bs ← parsePairs s (i + 2) n
    return b :: bs

/-- `renderPair`: the two characters of a byte, high nibble first (42_hex_codec.md R143). -/
def renderPair (b : Byte) : List Byte := [hexchar (highNibble b), hexchar (lowNibble b)]

/-- The length of a frame whose byte count is `bc` (42_hex_codec.md R145, 43_frame_sizer.md R172). -/
def frameLen (bc : Nat) : Nat := Config.minFrameLen + 2 * bc

/-- The text of a frame: MARKER, then the packed bytes, the payload and the checksum as pairs (42_hex_codec.md R144,
R146). -/
def frameText (p : Packed) (q : List Byte) (c : Byte) : List Byte :=
  Config.marker :: (p.toList ++ q ++ [c]).flatMap renderPair

end Sys2Proof.Machine
end

