-- ==== Sys2Proof/Machine/Bus.lean ====
section
/-! DEFINITION. The host's bus: the register map (10_state.md R22), which accesses are permitted (20_memory.md R60 to
R66), reads and writes while idle, and the BUSY hazard (70_reset_and_hazards.md R245, R246). -/

namespace Sys2Proof.Machine

/-! ### The register map -/

/-- The registers of the host window (10_state.md R22). -/
inductive Reg where
  | id | param | frameLim | ctrl | status | cmd | result | declLen
  | fByteCount | fVersion | fContext | fLastBlock | fBlockSeq | fCodeClass | fCodeDetail | fCodeTag
  | fMsgId | fObsFlag | fObsIdx | fResIdx | fChecksum
deriving DecidableEq, Repr

/-- The register at an offset of the register region; none where the map is empty (10_state.md R22). -/
def Reg.ofOffset : Nat → Option Reg
  | 0x000 => some .id
  | 0x004 => some .param
  | 0x008 => some .frameLim
  | 0x00C => some .ctrl
  | 0x010 => some .status
  | 0x014 => some .cmd
  | 0x018 => some .result
  | 0x01C => some .declLen
  | 0x040 => some .fByteCount
  | 0x044 => some .fVersion
  | 0x048 => some .fContext
  | 0x04C => some .fLastBlock
  | 0x050 => some .fBlockSeq
  | 0x054 => some .fCodeClass
  | 0x058 => some .fCodeDetail
  | 0x05C => some .fCodeTag
  | 0x060 => some .fMsgId
  | 0x064 => some .fObsFlag
  | 0x068 => some .fObsIdx
  | 0x06C => some .fResIdx
  | 0x070 => some .fChecksum
  | _ => none

/-- The width column of the register map (10_state.md R22). The bits above are reserved and read 0 (R21). -/
def Reg.width : Reg → Nat
  | .id | .frameLim | .cmd => 32
  | .param => 24
  | .ctrl | .fCodeTag => 1
  | .status => 12
  | .result | .declLen | .fByteCount => 16
  | .fVersion | .fContext | .fLastBlock | .fBlockSeq | .fCodeClass | .fCodeDetail
  | .fMsgId | .fObsFlag | .fObsIdx | .fResIdx | .fChecksum => 8

/-- What a register holds, zero-extended to the bus (10_state.md R21 to R48). -/
def readReg (s : State) : Reg → Word
  | .id => Config.idValue
  | .param => Config.paramValue
  | .frameLim => Config.frameLimValue
  | .ctrl => ctrlWord s
  | .status => statusWord s
  | .cmd => s.cmd
  | .result => s.result.setWidth 32
  | .declLen => s.declLen.setWidth 32
  | .fByteCount => s.fields.byteCount.setWidth 32
  | .fVersion => s.fields.version.setWidth 32
  | .fContext => s.fields.context.setWidth 32
  | .fLastBlock => s.fields.lastBlock.setWidth 32
  | .fBlockSeq => s.fields.blockSeq.setWidth 32
  | .fCodeClass => s.fields.codeClass.setWidth 32
  | .fCodeDetail => s.fields.codeDetail.setWidth 32
  | .fCodeTag => (BitVec.ofBool (codeTag s.fields)).setWidth 32
  | .fMsgId => s.fields.msgId.setWidth 32
  | .fObsFlag => s.fields.obsFlag.setWidth 32
  | .fObsIdx => s.fields.obsIdx.setWidth 32
  | .fResIdx => s.fields.resIdx.setWidth 32
  | .fChecksum => s.checksum.setWidth 32

/-- A host write of a register: a field register stores its low bits unmasked (10_state.md R35), CTRL, STATUS and CMD
have the effects of R26, R27 and R32, and a read-only register ignores the write (R21). -/
def writeReg (r : Reg) (v : Word) (s : State) : State :=
  match r with
  | .id | .param | .frameLim | .result | .fCodeTag => s
  | .ctrl => writeCtrl v s
  | .status => writeStatus v s
  | .cmd => acceptCommand v s
  | .declLen => { s with declLen := v.setWidth 16 }
  | .fByteCount => { s with fields := { s.fields with byteCount := v.setWidth 16 } }
  | .fVersion => { s with fields := { s.fields with version := v.setWidth 8 } }
  | .fContext => { s with fields := { s.fields with context := v.setWidth 8 } }
  | .fLastBlock => { s with fields := { s.fields with lastBlock := v.setWidth 8 } }
  | .fBlockSeq => { s with fields := { s.fields with blockSeq := v.setWidth 8 } }
  | .fCodeClass => { s with fields := { s.fields with codeClass := v.setWidth 8 } }
  | .fCodeDetail => { s with fields := { s.fields with codeDetail := v.setWidth 8 } }
  | .fMsgId => { s with fields := { s.fields with msgId := v.setWidth 8 } }
  | .fObsFlag => { s with fields := { s.fields with obsFlag := v.setWidth 8 } }
  | .fObsIdx => { s with fields := { s.fields with obsIdx := v.setWidth 8 } }
  | .fResIdx => { s with fields := { s.fields with resIdx := v.setWidth 8 } }
  | .fChecksum => { s with checksum := v.setWidth 8 }

/-! ### Permitted accesses -/

/-- What a permitted access selects: a register, one byte of a buffer, or an aligned word of a buffer. -/
inductive Target where
  | reg (r : Reg)
  | byte (a : Nat)
  | word (a : Nat)
deriving DecidableEq, Repr

/-- The offsets of the three buffers, their RAZ/WI bytes included (10_state.md R22). -/
def inBuffer (a : Nat) : Bool :=
  decide (0x080 ≤ a ∧ a < 0x088) || decide (0x100 ≤ a ∧ a < 0x200) || decide (0x400 ≤ a ∧ a < 0x610)

/-- What an access of `n` bytes at the offset `a` selects; none where it gets ERROR: an unmapped offset (20_memory.md
R62), a size other than 1 and 4 (R63), a byte access to a register or a misaligned one (R64), a misaligned word of a
buffer (R65). -/
def target (a n : Nat) : Option Target :=
  if n = 1 then if inBuffer a then some (.byte a) else none
  else if n = 4 then
    if a % 4 ≠ 0 then none
    else if a < 0x080 then (Reg.ofOffset a).map .reg
    else if inBuffer a then some (.word a)
    else none
  else none

/-- What a permitted read returns when nothing is unspecified (20_memory.md R60, R67; 10_state.md R22). -/
def readTarget (s : State) : Target → Word
  | .reg r => readReg s r
  | .byte a => (loadByte s a).setWidth 32
  | .word a => loadWord s a

/-- What a permitted write does while it is not dropped (20_memory.md R60, R61, R67, R71). -/
def writeTarget (t : Target) (v : Word) (s : State) : State :=
  match t with
  | .reg r => writeReg r v s
  | .byte a => storeByte a (v.setWidth 8) s
  | .word a => storeWord a v s

/-! ### The BUSY hazard -/

/-- The registers of a command's write set besides STATUS and RESULT (10_state.md R57). UNPACK's row names the RW field
registers, so not F_CODETAG, which is RO; the message state of DECODE and CLEAR names the field registers, F_CODETAG
among them (00_scope.md R12, 10_state.md R20). Log entry 6. -/
def writesReg (i : Instr) (r : Reg) : Bool :=
  match i with
  | .nop | .pack | .validate _ | .framelen | .ismark _ | .h2b _ _ | .b2h _ => false
  | .cksum | .encode => r == .fChecksum
  | .unpack =>
    match r with
    | .fByteCount | .fVersion | .fContext | .fLastBlock | .fBlockSeq | .fCodeClass | .fCodeDetail
    | .fMsgId | .fObsFlag | .fObsIdx | .fResIdx => true
    | _ => false
  | .decode | .clear =>
    match r with
    | .fByteCount | .fVersion | .fContext | .fLastBlock | .fBlockSeq | .fCodeClass | .fCodeDetail | .fCodeTag
    | .fMsgId | .fObsFlag | .fObsIdx | .fResIdx | .fChecksum => true
    | _ => false

/-- The buffer bytes of a command's write set (10_state.md R57). ENCODE's TEXT range is bounded by TEXT[524], since no
command writes TEXT[525..527] (R51). Log entry 6. -/
def writesByte (s : State) (i : Instr) (a : Nat) : Bool :=
  match i with
  | .nop | .unpack | .cksum | .validate _ | .framelen | .ismark _ | .h2b _ _ | .b2h _ => false
  | .pack => isPackedByte a
  | .encode =>
    isPackedByte a ||
      decide (textAddr 0 ≤ a ∧ a ≤ textAddr (14 + 2 * s.fields.byteCount.toNat) ∧ a < textAddr Config.maxFrameLen)
  | .decode | .clear => isPackedByte a || isPayloadByte a

/-- While BUSY, a read of this register is unspecified: RESULT, and the running command's write set
(70_reset_and_hazards.md R246). An illegal word has no further write set (10_state.md R57). -/
def regUnspecified (s : State) (r : Reg) : Bool :=
  s.busy &&
    (r == .result ||
      match decode s.pending with
      | .ok i => writesReg i r
      | .error _ => false)

/-- While BUSY, a read of this buffer byte is unspecified (70_reset_and_hazards.md R246). -/
def byteUnspecified (s : State) (a : Nat) : Bool :=
  s.busy &&
    match decode s.pending with
    | .ok i => writesByte s i a
    | .error _ => false

/-- Some of what the target names is unspecified now. -/
def targetUnspecified (s : State) : Target → Bool
  | .reg r => regUnspecified s r
  | .byte a => byteUnspecified s a
  | .word a =>
    byteUnspecified s a || byteUnspecified s (a + 1) || byteUnspecified s (a + 2) || byteUnspecified s (a + 3)

/-- The byte a read shows at the offset `a`: the draw's byte where it is unspecified, else the current one. -/
def shownByte (s : State) (draw : Byte) (a : Nat) : Byte := if byteUnspecified s a then draw else loadByte s a

/-- The data of a read, the draw `d` standing for what is unspecified: each unspecified byte of a buffer, and the
implemented bits of an unspecified register, whose reserved bits read 0 (10_state.md R21; log entry 5). -/
def shownData (s : State) (d : Word) : Target → Word
  | .reg r => if regUnspecified s r then d &&& BitVec.ofNat 32 (2 ^ r.width - 1) else readReg s r
  | .byte a => (shownByte s (d.extractLsb' 0 8) a).setWidth 32
  | .word a =>
    wordOfBytes (shownByte s (d.extractLsb' 0 8) a) (shownByte s (d.extractLsb' 8 8) (a + 1))
      (shownByte s (d.extractLsb' 16 8) (a + 2)) (shownByte s (d.extractLsb' 24 8) (a + 3))

/-! ### Transactions -/

/-- The response OKAY to a write. -/
def okayWrite : BusResponse := ⟨.okay, 0⟩

/-- The response ERROR, with data 0 (20_memory.md R66). -/
def errorResponse : BusResponse := ⟨.error, 0⟩

/-- Present a response to the host. -/
def respond (r : BusResponse) (s : State) : State := { s with response := some r }

/-- An access at or above BASE + 0x800 does not select the block: no response, no effect (20_memory.md R60, log
entry 8). -/
def notSelected (s : State) : State := { s with response := none }

/-- `MemRead(a, n)` (20_memory.md R60). A read has no side effect (R71); a read that is unspecified in part takes a
draw (70_reset_and_hazards.md R246). -/
def serveRead (a n : Nat) (s : State) : State :=
  if a < Config.windowSize then
    match target a n with
    | none => respond errorResponse s
    | some t =>
      if targetUnspecified s t then
        respond ⟨.okay, shownData s (Config.busyRead s.draws) t⟩ { s with draws := s.draws + 1 }
      else respond ⟨.okay, readTarget s t⟩ s
  else notSelected s

/-- The two registers a host may write while BUSY (70_reset_and_hazards.md R245). -/
def writableWhileBusy (t : Target) : Bool := t == .reg .ctrl || t == .reg .status

/-- `MemWrite(a, n, v)` (20_memory.md R60). While BUSY, a permitted write to anything but CTRL and STATUS is dropped
with WERR and OKAY (70_reset_and_hazards.md R245). -/
def serveWrite (a n : Nat) (v : Word) (s : State) : State :=
  if a < Config.windowSize then
    match target a n with
    | none => respond errorResponse s
    | some t =>
      if s.busy && !writableWhileBusy t then respond okayWrite (dropWrite s)
      else respond okayWrite (writeTarget t v s)
  else notSelected s

/-- One round of POLL: a read of STATUS; while bit 0 of the data is 1 the loop goes on (30_encoding.md R97). -/
def servePoll (s : State) : State :=
  let t := serveRead 0x010 4 s
  if (statusWord s).getLsbD 0 then { t with inputs := .poll :: t.inputs } else t

/-- Serve one input. -/
def serve (op : HostOp) (s : State) : State :=
  match op with
  | .read a n => serveRead a n s
  | .write a n v => serveWrite a n v s
  | .poll => servePoll s
  | .reset => resetBlock s

/-- The offset of a bus address; none where the address does not select the block (20_memory.md R60). BASE is the
platform's (00_scope.md R8). -/
def offsetOf (busAddr : Nat) : Option Nat :=
  if Config.base ≤ busAddr ∧ busAddr < Config.base + Config.windowSize then some (busAddr - Config.base) else none

end Sys2Proof.Machine
end

