-- ==== Sys2Proof/Machine/Checksum.lean ====
section
/-! DEFINITION. The checksum family: CKSUM, VALIDATE (41_checksum.md R132, R133). -/

namespace Sys2Proof.Machine

/-- CKSUM (41_checksum.md R132). -/
def execCksum (s : State) : Host.Outcome State Fault Refusal :=
  if payloadTooLarge s then .next (raise .payloadTooLarge s)
  else
    let c := computeChecksum s
    .next (succeed (c.setWidth 16) { s with checksum := c })

/-- VALIDATE, with the claimed checksum ARG0 (41_checksum.md R133). A mismatch is a value, not an error. -/
def execValidate (claimed : Byte) (s : State) : Host.Outcome State Fault Refusal :=
  if payloadTooLarge s then .next (raise .payloadTooLarge s)
  else .next (succeed (if claimed = computeChecksum s then 1 else 0) s)

end Sys2Proof.Machine
end

