-- ==== Sys2Proof/Machine/Control.lean ====
section
/-! DEFINITION. NOP, and the illegal word (44_control.md R180, R181). -/

namespace Sys2Proof.Machine

/-- NOP (44_control.md R180). -/
def execNop (s : State) : Host.Outcome State Fault Refusal := .next (succeed 0 s)

/-- An illegal word completes with IllegalCommand and changes nothing else (44_control.md R181, 30_encoding.md R94). -/
def execIllegal (s : State) : Host.Outcome State Fault Refusal := .next (raise .illegalCommand s)

end Sys2Proof.Machine
end

