-- ==== Sys2Proof/Machine/FrameSizer.lean ====
section
/-! DEFINITION. The frame-length detector: FRAMELEN (43_frame_sizer.md R172). -/

namespace Sys2Proof.Machine

/-- The checks and the result of FRAMELEN (43_frame_sizer.md R172). The start marker is not checked. -/
def predictLength (s : State) : Except ErrorCode Nat := do
  if s.declLen.toNat < Config.minFrameLen then throw .frameTooShort
  let bc ← parsePair s 1
  return frameLen bc.toNat

/-- FRAMELEN (43_frame_sizer.md R172). -/
def execFramelen (s : State) : Host.Outcome State Fault Refusal :=
  match predictLength s with
  | .error e => .next (raise e s)
  | .ok n => .next (succeed (BitVec.ofNat 16 n) s)

end Sys2Proof.Machine
end

