-- ==== Sys2Proof/Machine/HexCodec.lean ====
section
/-! DEFINITION. The hex codec family: ENCODE, DECODE, ISMARK, H2B, B2H (42_hex_codec.md R146, R147, R150 to R152). -/

namespace Sys2Proof.Machine

/-- The writes of a successful ENCODE: the frame in TEXT, PACKED[0..5] and F_CHECKSUM (42_hex_codec.md R146). -/
def writeFrame (p : Packed) (q : List Byte) (c : Byte) (s : State) : State :=
  { s with
    mem := Memory.writeBytes (Memory.writeBytes s.mem (textAddr 0) (frameText p q c)) (packedAddr 0) p.toList
    checksum := c }

/-- ENCODE (42_hex_codec.md R146). -/
def execEncode (s : State) : Host.Outcome State Fault Refusal :=
  if payloadTooLarge s then .next (raise .payloadTooLarge s)
  else
    .next (succeed (BitVec.ofNat 16 (frameLen (payloadCount s)))
      (writeFrame (packBytes s.fields) (payloadBytes s) (computeChecksum s) s))

/-- A frame that DECODE has read and checked: its packed bytes, payload and checksum (42_hex_codec.md R147). -/
structure Frame where
  packed : Packed
  payload : List Byte
  checksum : Byte
deriving DecidableEq, Repr

/-- The metadata bytes PACKED[1..5] of the frame, after its byte count, in increasing index (42_hex_codec.md R147). -/
def parsePacked (s : State) (bc : Byte) : Except ErrorCode Packed := do
  let p1 ← parsePair s 3
  let p2 ← parsePair s 5
  let p3 ← parsePair s 7
  let p4 ← parsePair s 9
  let p5 ← parsePair s 11
  return ⟨bc, p1, p2, p3, p4, p5⟩

/-- The parsing and the checks of DECODE, in their order (42_hex_codec.md R147, 60_exceptions.md R208). -/
def decodeFrame (s : State) : Except ErrorCode Frame := do
  if s.declLen.toNat < Config.minFrameLen then throw .frameTooShort
  let bc ← parsePair s 1
  if s.declLen.toNat < frameLen bc.toNat then throw .frameIncomplete
  if textChar s 0 ≠ Config.marker then throw .invalidStartMarker
  let p ← parsePacked s bc
  let q ← parsePairs s 13 bc.toNat
  let c ← parsePair s (13 + 2 * bc.toNat)
  if checksumOf p q ≠ c then throw .checksumMismatch
  return ⟨p, q, c⟩

/-- The writes of a successful DECODE (42_hex_codec.md R147). -/
def writeMessage (f : Frame) (s : State) : State :=
  { s with
    mem := Memory.writeBytes (Memory.writeBytes s.mem (packedAddr 0) f.packed.toList) (payloadAddr 0) f.payload
    fields := unpackBytes f.packed
    checksum := f.checksum }

/-- DECODE (42_hex_codec.md R147): the message state is cleared first, before any raise (R149). -/
def execDecode (s : State) : Host.Outcome State Fault Refusal :=
  let cleared := clearMessage s
  match decodeFrame cleared with
  | .error e => .next (raise e cleared)
  | .ok f => .next (succeed (BitVec.ofNat 16 (frameLen f.packed.p0.toNat)) (writeMessage f cleared))

/-- ISMARK (42_hex_codec.md R152). -/
def execIsmark (char : Byte) (s : State) : Host.Outcome State Fault Refusal :=
  .next (succeed (if char = Config.marker then 1 else 0) s)

/-- H2B (42_hex_codec.md R150). -/
def execH2b (hi lo : Byte) (s : State) : Host.Outcome State Fault Refusal :=
  match hexPair hi lo with
  | .error e => .next (raise e s)
  | .ok b => .next (succeed (b.setWidth 16) s)

/-- B2H (42_hex_codec.md R151): the first character, of the high nibble, in RESULT[7:0]. -/
def execB2h (byte : Byte) (s : State) : Host.Outcome State Fault Refusal :=
  .next (succeed (hexchar (lowNibble byte) ++ hexchar (highNibble byte)) s)

end Sys2Proof.Machine
end

