-- ==== Sys2Proof/Machine/Packer.lean ====
section
/-! DEFINITION. The packer family: PACK, UNPACK, CLEAR (40_packer.md R115 to R118). -/

namespace Sys2Proof.Machine

/-- PACK (40_packer.md R115). It never fails, and truncates every field to its width. -/
def execPack (s : State) : Host.Outcome State Fault Refusal :=
  .next (succeed 0 (storePacked (packBytes s.fields) s))

/-- UNPACK (40_packer.md R116). -/
def execUnpack (s : State) : Host.Outcome State Fault Refusal :=
  .next (succeed 0 { s with fields := unpackBytes (loadPacked s) })

/-- CLEAR (40_packer.md R117). -/
def execClear (s : State) : Host.Outcome State Fault Refusal :=
  .next (succeed 0 (clearMessage s))

end Sys2Proof.Machine
end

