-- ==== Sys2Proof/Machine/Dispatch.lean ====
section
/-! DEFINITION. The meaning of every command: what the engine's perform step does with it (20_memory.md R76). -/

namespace Sys2Proof.Machine

/-- One arm per command of the opcode table (30_encoding.md R93). -/
def exec (i : Instr) (s : State) : Host.Outcome State Fault Refusal :=
  match i with
  | .nop => Sys2Proof.Machine.execNop s
  | .pack => Sys2Proof.Machine.execPack s
  | .unpack => Sys2Proof.Machine.execUnpack s
  | .cksum => Sys2Proof.Machine.execCksum s
  | .validate claimed => Sys2Proof.Machine.execValidate claimed s
  | .encode => Sys2Proof.Machine.execEncode s
  | .decode => Sys2Proof.Machine.execDecode s
  | .framelen => Sys2Proof.Machine.execFramelen s
  | .clear => Sys2Proof.Machine.execClear s
  | .ismark char => Sys2Proof.Machine.execIsmark char s
  | .h2b hi lo => Sys2Proof.Machine.execH2b hi lo s
  | .b2h byte => Sys2Proof.Machine.execB2h byte s

end Sys2Proof.Machine
end

