-- ==== Sys2Proof/Machine/Engine.lean ====
section
/-! DEFINITION. The engine's perform step, and which agent moves next (00_scope.md R7, 20_memory.md R75 to R77). -/

namespace Sys2Proof.Machine

/-- Who acts next on the block. -/
inductive Agent where
  /-- the engine performs the command in flight -/
  | engine
  /-- the oldest waiting input is served, the others wait on -/
  | outside (op : HostOp) (rest : List HostOp)
  /-- nothing happens (70_reset_and_hazards.md R243) -/
  | idle
deriving DecidableEq, Repr

/-- Who acts next: while a command is in flight the engine acts once `wait` inputs have been served, or no input
waits; else the oldest input is served (20_memory.md R76, 70_reset_and_hazards.md R248; log entry 2). -/
def nextAgent (s : State) : Agent :=
  match s.inputs with
  | [] => if s.busy then .engine else .idle
  | op :: rest => if s.busy && decide (s.wait = 0) then .engine else .outside op rest

/-- Take the oldest input off the queue and serve it. -/
def serveNext (op : HostOp) (rest : List HostOp) (s : State) : State :=
  serve op { s with inputs := rest, wait := s.wait - 1 }

/-- The perform step: the command that PENDING spells, or the illegal word (20_memory.md R76, 30_encoding.md R96,
44_control.md R181). -/
def performPending (s : State) : Host.Outcome State Fault Refusal :=
  match decode s.pending with
  | .ok i => exec i s
  | .error _ => execIllegal s

/-- The state right after the command word `w` was accepted, the perform step next: what `withFetchWord` places (log
entry 1). -/
def placeCommand (w : Word) (s : State) : State :=
  { s with cmd := w, pending := w, busy := true, done := false, wait := 0 }

end Sys2Proof.Machine
end

