-- ==== Sys2Proof/Machine/Step.lean ====
section
/-! DEFINITION. One step of the block: one host transaction, one reset, or one perform step (20_memory.md R76, R78). -/

namespace Sys2Proof.Machine

/-- The agent whose turn it is acts. An idle block with nothing waiting stays as it is (70_reset_and_hazards.md
R243). -/
def step (s : State) : Host.Outcome State Fault Refusal :=
  match nextAgent s with
  | .engine => performPending s
  | .outside op rest => .next (serveNext op rest s)
  | .idle => .next s

/-- Place a row's command word as the command in flight, the perform step next (log entry 1). -/
def State.withFetchWord (s : State) (nbits w : Nat) : State := placeCommand (wordOfTable nbits w) s

end Sys2Proof.Machine
end

