-- ==== Sys2Proof/Safety.lean ====
section
/-! DEFINITION. What counts as a safe run, in the terms the statements use: the invariant of the block, and the spec's
arithmetic on plain numbers, written from its words apart from the machine's own definitions. -/

namespace Sys2Proof.Machine

/-! ### Safe runs -/

/-- The error codes that are ever recorded: success and the codes of 60_exceptions.md R201 that some command raises
(R202, R203). -/
def recordedCodes : List (BitVec 4) := [0, 2, 4, 5, 6, 7, 8, 9]

/-- The invariant of the block. -/
structure Inv (s : State) : Prop where
  /-- the buffers' memory is in its canonical form (log entry 4) -/
  memory : s.mem.wf = true
  /-- STATUS.ERR holds a code that some command records (60_exceptions.md R201, R203) -/
  recorded : s.err ∈ recordedCodes
  /-- an error leaves RESULT at 0 (60_exceptions.md R205) -/
  errorResult : s.err ≠ 0 → s.result = 0
  /-- while a command is in flight, PENDING is what CMD reads (10_state.md R52) -/
  pendingIsCmd : s.busy = true → s.pending = s.cmd
  /-- while a command is in flight, DONE is 0 (10_state.md R29) -/
  notDone : s.busy = true → s.done = false

/-- The step answers a next state. -/
def StepsOn (s : State) : Prop := ∃ t, step s = .next t

/-- The engine's perform step is next: a command is in flight, and no input is served before it (20_memory.md R76). -/
def PerformsNext (s : State) : Prop := s.busy = true ∧ (s.wait = 0 ∨ s.inputs = [])

/-- The input `op` is served next, and `rest` waits on. -/
def ServesNext (op : HostOp) (rest : List HostOp) (s : State) : Prop :=
  s.inputs = op :: rest ∧ (s.busy = false ∨ s.wait ≠ 0)

/-- The state `s` after its oldest input has been taken off the queue. -/
def State.afterTaking (s : State) (rest : List HostOp) : State := { s with inputs := rest, wait := s.wait - 1 }

/-- The end of a command with the code `e` and the value `r`, all else as in `s` (60_exceptions.md R205). -/
def State.ended (s : State) (e : BitVec 4) (r : Half) : State :=
  { s with err := e, result := r, done := true, busy := false }

/-! ### The spec's arithmetic -/

/-- The value of a hex digit, by the ranges of 42_hex_codec.md R140. -/
def Spec.digit (c : Byte) : Option Nat :=
  if 0x30 ≤ c.toNat ∧ c.toNat ≤ 0x39 then some (c.toNat - 0x30)
  else if 0x41 ≤ c.toNat ∧ c.toNat ≤ 0x46 then some (c.toNat - 0x41 + 10)
  else if 0x61 ≤ c.toNat ∧ c.toNat ≤ 0x66 then some (c.toNat - 0x61 + 10)
  else none

/-- The value of two hex characters, high nibble first (42_hex_codec.md R142, R150). -/
def Spec.pair (hi lo : Byte) : Option Nat :=
  match Spec.digit hi, Spec.digit lo with
  | some h, some l => some (16 * h + l)
  | _, _ => none

/-- The upper-case digit of a number below 16 (42_hex_codec.md R141). -/
def Spec.upperDigit (n : Nat) : Nat := if n ≤ 9 then 0x30 + n else 0x41 + n - 10

/-- The pair at TEXT[i] (42_hex_codec.md R142). -/
def Spec.textPair (s : State) (i : Nat) : Option Nat := Spec.pair (textChar s i) (textChar s (i + 1))

/-- A packed byte from the field registers: each field modulo 2 to its width, times 2 to its offset
(40_packer.md R110, R112). -/
def Spec.packedByte (f : Fields) : Nat → Nat
  | 0 => f.byteCount.toNat % 256
  | 1 =>
    f.version.toNat % 4 * 64 + f.context.toNat % 4 * 16 + f.lastBlock.toNat % 2 * 8 + f.blockSeq.toNat % 8
  | 2 => f.codeClass.toNat % 8 * 32 + f.codeDetail.toNat % 32
  | 3 => f.msgId.toNat
  | 4 => f.obsFlag.toNat % 2 * 128 + f.obsIdx.toNat % 128
  | 5 => f.resIdx.toNat
  | _ => 0

/-- The field registers that hold the fields of six packed bytes (40_packer.md R113). -/
def Spec.FieldsOf (p : Nat → Nat) (f : Fields) : Prop :=
  f.byteCount.toNat = p 0 ∧
  f.version.toNat = p 1 / 64 ∧ f.context.toNat = p 1 / 16 % 4 ∧
  f.lastBlock.toNat = p 1 / 8 % 2 ∧ f.blockSeq.toNat = p 1 % 8 ∧
  f.codeClass.toNat = p 2 / 32 ∧ f.codeDetail.toNat = p 2 % 32 ∧
  f.msgId.toNat = p 3 ∧
  f.obsFlag.toNat = p 4 / 128 ∧ f.obsIdx.toNat = p 4 % 128 ∧
  f.resIdx.toNat = p 5

/-- The value of a field by its name in the layout table (40_packer.md R110). -/
def Spec.fieldValue (f : Fields) : FieldName → Nat
  | .byteCount => f.byteCount.toNat
  | .version => f.version.toNat
  | .context => f.context.toNat
  | .lastBlock => f.lastBlock.toNat
  | .blockSeq => f.blockSeq.toNat
  | .codeClass => f.codeClass.toNat
  | .codeDetail => f.codeDetail.toNat
  | .msgId => f.msgId.toNat
  | .obsFlag => f.obsFlag.toNat
  | .obsIdx => f.obsIdx.toNat
  | .resIdx => f.resIdx.toNat

/-- Each field within its wire width (40_packer.md R110). -/
def Spec.WithinWidths (f : Fields) : Prop :=
  ∀ r ∈ Config.fieldLayout, Spec.fieldValue f r.name < 2 ^ r.width

/-- Each field of `g` is the field of `f` masked to its wire width (40_packer.md R119). -/
def Spec.Masked (f g : Fields) : Prop :=
  ∀ r ∈ Config.fieldLayout, Spec.fieldValue g r.name = Spec.fieldValue f r.name % 2 ^ r.width

/-- The sum of the packed bytes and of the first `F_BYTECOUNT` payload bytes (41_checksum.md R131). -/
def Spec.messageSum (s : State) : Nat :=
  ((List.range 6).map (Spec.packedByte s.fields)).sum +
    ((List.range s.fields.byteCount.toNat).map (fun j => (loadByte s (payloadAddr j)).toNat)).sum

/-- The checksum: 256 minus the sum, modulo 256 (41_checksum.md R130, R131). -/
def Spec.checksum (s : State) : Nat := (256 - Spec.messageSum s % 256) % 256

/-- The sum of the frame's bytes in TEXT, the checksum byte among them: `7 + bc` pairs from TEXT[1] on
(42_hex_codec.md R144). A pair that is no hex pair counts 0. -/
def Spec.frameSum (s : State) (bc : Nat) : Nat :=
  ((List.range (7 + bc)).map (fun k => (Spec.textPair s (1 + 2 * k)).getD 0)).sum

/-- Every character of the pairs of a frame with byte count `bc` is a hex digit (42_hex_codec.md R144, R147). -/
def Spec.allDigits (s : State) (bc : Nat) : Bool :=
  (List.range (7 + bc)).all (fun k => (Spec.textPair s (1 + 2 * k)).isSome)

/-- The code DECODE records, by the order of checks of 42_hex_codec.md R147 and 60_exceptions.md R208, with the
frame's byte count when it is 0. The checksum test is 41_checksum.md R134: the frame's bytes sum to 0 modulo 256. -/
def Spec.decodeCode (s : State) : Nat × Nat :=
  if s.declLen.toNat < 15 then (4, 0)
  else
    match Spec.textPair s 1 with
    | none => (8, 0)
    | some bc =>
      if s.declLen.toNat < 15 + 2 * bc then (5, 0)
      else if textChar s 0 ≠ 0x3A#8 then (6, 0)
      else if Spec.allDigits s bc = false then (8, 0)
      else if Spec.frameSum s bc % 256 ≠ 0 then (7, 0)
      else (0, bc)

/-- The accesses of 20_memory.md R62 to R65 that are permitted: an aligned word of a mapped register, a byte of a
buffer, an aligned word of a buffer (10_state.md R22). -/
def Spec.permitted (a n : Nat) : Bool :=
  (n == 4 && a % 4 == 0 && (decide (a < 0x020) || decide (0x040 ≤ a ∧ a < 0x074))) ||
    ((n == 1 || (n == 4 && a % 4 == 0)) &&
      (decide (0x080 ≤ a ∧ a < 0x088) || decide (0x100 ≤ a ∧ a < 0x200) || decide (0x400 ≤ a ∧ a < 0x610)))

/-- TEXT[i] and TEXT[i+1] are the upper-case digits of the byte `n`, the high nibble first (42_hex_codec.md R141,
R143). -/
def Spec.ShowsByte (s : State) (i n : Nat) : Prop :=
  (textChar s i).toNat = Spec.upperDigit (n / 16) ∧ (textChar s (i + 1)).toNat = Spec.upperDigit (n % 16)

/-- The error codes that a command can record besides 0 (60_exceptions.md R202). -/
def Spec.raises : Instr → List (BitVec 4)
  | .nop | .pack | .unpack | .clear | .ismark _ | .b2h _ => []
  | .cksum | .validate _ | .encode => [2]
  | .decode => [4, 5, 6, 7, 8]
  | .framelen => [4, 8]
  | .h2b _ _ => [8]

/-- The registers that a host write stores into, with their stored widths: DECL_LEN and the RW field registers
(10_state.md R34 to R48). -/
def Spec.storedWidths : List (Nat × Nat) :=
  [(0x01C, 16), (0x040, 16), (0x044, 8), (0x048, 8), (0x04C, 8), (0x050, 8), (0x054, 8), (0x058, 8), (0x060, 8),
    (0x064, 8), (0x068, 8), (0x06C, 8), (0x070, 8)]

/-- A row of the register map: the offset, the width used, and the value that the register shows
(10_state.md R22). -/
structure Spec.RegisterRow where
  offset : Nat
  width : Nat
  value : Nat
deriving DecidableEq, Repr

/-- The register map with what each register shows of the state (10_state.md R22 to R27, R32 to R48). -/
def Spec.registerRows (s : State) : List Spec.RegisterRow :=
  [ ⟨0x000, 32, 0x534D4F53⟩,
    ⟨0x004, 24, 0x00FF053A⟩,
    ⟨0x008, 32, 0x020D000F⟩,
    ⟨0x00C, 1, s.ie.toNat⟩,
    ⟨0x010, 12, s.busy.toNat + 2 * s.done.toNat + 4 * s.werr.toNat + 256 * s.err.toNat⟩,
    ⟨0x014, 32, s.cmd.toNat⟩,
    ⟨0x018, 16, s.result.toNat⟩,
    ⟨0x01C, 16, s.declLen.toNat⟩,
    ⟨0x040, 16, s.fields.byteCount.toNat⟩,
    ⟨0x044, 8, s.fields.version.toNat⟩,
    ⟨0x048, 8, s.fields.context.toNat⟩,
    ⟨0x04C, 8, s.fields.lastBlock.toNat⟩,
    ⟨0x050, 8, s.fields.blockSeq.toNat⟩,
    ⟨0x054, 8, s.fields.codeClass.toNat⟩,
    ⟨0x058, 8, s.fields.codeDetail.toNat⟩,
    ⟨0x05C, 1, if s.fields.codeClass.toNat % 8 = 0 then 0 else 1⟩,
    ⟨0x060, 8, s.fields.msgId.toNat⟩,
    ⟨0x064, 8, s.fields.obsFlag.toNat⟩,
    ⟨0x068, 8, s.fields.obsIdx.toNat⟩,
    ⟨0x06C, 8, s.fields.resIdx.toNat⟩,
    ⟨0x070, 8, s.checksum.toNat⟩ ]

/-- The registers that ignore a host write: ID, PARAM, FRAMELIM, RESULT and F_CODETAG (10_state.md R21, R22). -/
def Spec.readOnlyOffsets : List Nat := [0x000, 0x004, 0x008, 0x018, 0x05C]

/-- The offsets of the RW field registers but F_CHECKSUM (10_state.md R22, R57). -/
def Spec.rwFieldOffsets : List Nat :=
  [0x040, 0x044, 0x048, 0x04C, 0x050, 0x054, 0x058, 0x060, 0x064, 0x068, 0x06C]

/-- An offset is in the further writes of a command's row, by the table of 10_state.md R57 as log entry 6 reads it: the
offset of a register, or of a byte of a buffer. -/
def Spec.inWriteSet (s : State) (i : Instr) (a : Nat) : Bool :=
  let packed := decide (0x080 ≤ a ∧ a < 0x086)
  let messageState :=
    packed || decide (0x100 ≤ a ∧ a < 0x1FF) || decide (a ∈ Spec.rwFieldOffsets) || a == 0x05C || a == 0x070
  match i with
  | .nop | .validate _ | .framelen | .ismark _ | .h2b _ _ | .b2h _ => false
  | .pack => packed
  | .unpack => decide (a ∈ Spec.rwFieldOffsets)
  | .cksum => a == 0x070
  | .encode =>
    packed || a == 0x070 || decide (0x400 ≤ a ∧ a ≤ 0x40E + 2 * s.fields.byteCount.toNat ∧ a < 0x60D)
  | .decode | .clear => messageState

/-- While BUSY, what a read shows at this offset is unspecified: RESULT, and the write set of the command in flight, none
for an illegal word (70_reset_and_hazards.md R246, 10_state.md R57). -/
def Spec.unspecifiedAt (s : State) (a : Nat) : Bool :=
  a == 0x018 ||
    match decode s.pending with
    | .ok i => Spec.inWriteSet s i a
    | .error _ => false

/-- The reset value of a register (10_state.md R22, 70_reset_and_hazards.md R240). -/
def Spec.resetValue : Reg → Word
  | .id => 0x534D4F53#32
  | .param => 0x00FF053A#32
  | .frameLim => 0x020D000F#32
  | _ => 0

end Sys2Proof.Machine
end

