-- ==== Sys2Proof/Certificates/Slice0/Obligations.lean ====
section
/-! DEFINITION. The statements about the block, for the provers. Each says which rule of the spec it formalises. -/

open Sys2Proof Sys2Proof.Machine

/-! ### The command words -/

/-- 30_encoding.md R96, R98: the decoder reads back every command that the encoder writes, every operand kept. -/
def Obligations.DecodeInvertsEncode : Prop := ∀ i : Instr, decode (encode i) = .ok i

/-- 30_encoding.md R96, R98: a word that the decoder reads as a command is the one word of that command. -/
def Obligations.EncodeInvertsDecode : Prop := ∀ (w : Word) (i : Instr), decode w = .ok i → encode i = w

/-- 30_encoding.md R93, R96: the decoder reads a row's command exactly where the row's match and mask spell it, and a
word spells at most one row. -/
def Obligations.DecodeFollowsOpcodeMap : Prop :=
  (∀ (w : Word), ∀ r ∈ commandRows,
    (r.spells w = true ↔ ∃ i, decode w = .ok i ∧ i.mnemonic = r.mnemonic)) ∧
  (∀ (w : Word), ∀ r₁ ∈ commandRows, ∀ r₂ ∈ commandRows, r₁.spells w = true → r₂.spells w = true → r₁ = r₂)

/-- 30_encoding.md R94: the decoder rejects exactly the words of the three illegal cases. -/
def Obligations.DecodeRejectsExactlyIllegalWords : Prop :=
  ∀ w : Word, (∃ e, decode w = .error e) ↔
    (12 ≤ w.toNat % 256 ∨ w.toNat / 2 ^ 24 ≠ 0 ∨
      (w.toNat % 256 ∉ [4, 9, 10, 11] ∧ w.toNat / 2 ^ 8 % 256 ≠ 0) ∨
      (w.toNat % 256 ≠ 10 ∧ w.toNat / 2 ^ 16 % 256 ≠ 0))

/-- 30_encoding.md R98: the example words, and the word of NOP, decode to the commands they stand for. -/
def Obligations.ExampleWordsDecode : Prop :=
  decode 0x0000F504#32 = .ok (.validate 0xF5#8) ∧
  decode 0x00003A09#32 = .ok (.ismark 0x3A#8) ∧
  decode 0x0062410A#32 = .ok (.h2b 0x41#8 0x62#8) ∧
  decode 0x0000AB0B#32 = .ok (.b2h 0xAB#8) ∧
  decode 0x00000000#32 = .ok .nop

/-! ### The step -/

/-- 20_memory.md R76, 30_encoding.md R96: where the perform step is next and PENDING spells a command, the step is that
command's meaning. -/
def Obligations.StepPerformsPendingCommand : Prop :=
  ∀ (s : State) (i : Instr), PerformsNext s → decode s.pending = .ok i → step s = exec i s

/-- 44_control.md R181, 30_encoding.md R94: where the perform step is next and PENDING is an illegal word, the step
completes it with IllegalCommand (9) and RESULT 0, and changes nothing else. -/
def Obligations.IllegalWordCompletesWithIllegalCommand : Prop :=
  ∀ s : State, PerformsNext s → wordWellFormed s.pending = false → step s = .next (s.ended 9 0)

/-- 20_memory.md R75: an input whose turn it is is served alone, the others wait on in order. The queue is the model's
(log entries 1 and 2). -/
def Obligations.StepServesOldestInput : Prop :=
  ∀ (s : State) (op : HostOp) (rest : List HostOp), ServesNext op rest s →
    step s = .next (serve op (s.afterTaking rest))

/-- 70_reset_and_hazards.md R243: an idle block with nothing to serve stays as it is. -/
def Obligations.IdleBlockStaysIdle : Prop :=
  ∀ s : State, s.busy = false → s.inputs = [] → step s = .next s

/-- 60_exceptions.md R200, R204: in every state the step answers a next state: no command halts the block, and a bus
ERROR is a response. That no other step stops either, a served access and a reset among them, is the model's deduction
(log entry 15). -/
def Obligations.EveryStepAnswersNext : Prop := ∀ s : State, StepsOn s

/-- 60_exceptions.md R200, 70_reset_and_hazards.md R248: every accepted command completes, after at most as many inputs
as the model's wait (log entry 2), if no reset comes in between. -/
def Obligations.EveryAcceptedCommandCompletes : Prop :=
  ∀ s : State, s.busy = true → .reset ∉ s.inputs →
    ∃ k ≤ s.wait + 1, ∃ t : State, Host.Core.run Sys2Proof.core k s = .next t ∧ t.busy = false ∧ t.done = true

/-! ### Invariants and reset -/

/-- The invariant of the block (`Inv`: the memory's canonical form, the recorded error codes of 60_exceptions.md R201
and R203, RESULT 0 after an error, R205, and PENDING and DONE of a command in flight, 10_state.md R29, R52) is kept by
every step from every state. -/
def Obligations.StepKeepsInv : Prop := ∀ s t : State, Inv s → step s = .next t → Inv t

/-- The invariant holds right after reset. -/
def Obligations.ResetStateSatisfiesInv : Prop := Inv State.reset

/-- 70_reset_and_hazards.md R240, R242: the reset event sets every register to its reset value, PACKED to 0, IRQ to 0,
and abandons a command in flight. -/
def Obligations.ResetEventSetsResetValues : Prop :=
  ∀ (s : State) (rest : List HostOp), ServesNext .reset rest s →
    ∃ t : State, step s = .next t ∧ (∀ r : Reg, readReg t r = Spec.resetValue r) ∧ t.busy = false ∧
      (∀ i < 8, loadByte t (packedAddr i) = 0) ∧ irq t = false ∧ t.inputs = rest

/-- 70_reset_and_hazards.md R241, with log entry 3 (the model's form of the draw): after the reset event every byte of
PAYLOAD[0..254] and TEXT is the free value of the new reset, and PAYLOAD[255] reads 0. -/
def Obligations.ResetEventRedrawsBuffers : Prop :=
  ∀ (s : State) (rest : List HostOp), ServesNext .reset rest s →
    ∃ t : State, step s = .next t ∧ loadByte t (payloadAddr 255) = 0 ∧
      (∀ j < 255, loadByte t (payloadAddr j) = Config.unspecifiedByte (s.epoch + 1) (payloadAddr j)) ∧
      (∀ i < 528, loadByte t (textAddr i) = Config.unspecifiedByte (s.epoch + 1) (textAddr i))

/-! ### All commands -/

/-- 60_exceptions.md R202, with R205: every command completes with DONE 1 and BUSY 0, records 0 or a code of its row, and
leaves RESULT at 0 with an error; an illegal word records 9. -/
def Obligations.CommandsRecordOnlyTheirCodes : Prop :=
  (∀ (i : Instr) (s : State), ∃ t : State, exec i s = .next t ∧ t.done = true ∧ t.busy = false ∧
    t.err ∈ 0 :: Spec.raises i ∧ (t.err ≠ 0 → t.result = 0)) ∧
  (∀ (s : State) (e : Illegal), decode s.pending = .error e → performPending s = .next (s.ended 9 0))

/-- 10_state.md R57: a command changes no buffer byte and no register outside its write set, STATUS and RESULT, and
nothing of the host's side; F_CODETAG, which is computed, changes only where F_CODECLASS is in the set. The write sets are
read from R57's table as log entry 6 says. -/
def Obligations.CommandsWriteOnlyTheirWriteSet : Prop :=
  ∀ (i : Instr) (s t : State), exec i s = .next t →
    (∀ a, Spec.inWriteSet s i a = false → loadByte t a = loadByte s a) ∧
    (∀ a r, Reg.ofOffset a = some r → a ≠ 0x010 → a ≠ 0x018 → Spec.inWriteSet s i a = false →
      (a = 0x05C → Spec.inWriteSet s i 0x054 = false) → readReg t r = readReg s r) ∧
    t.werr = s.werr ∧ t.pending = s.pending ∧ t.inputs = s.inputs ∧ t.response = s.response ∧ t.wait = s.wait ∧
    t.draws = s.draws ∧ t.epoch = s.epoch

/-- 60_exceptions.md R211, R210: a completion raises IRQ exactly where IE is 1, and sets DONE in any case; a write of
STATUS with bit 1, the acceptance of a command and a reset clear it; a write of CTRL masks it or, with DONE 1, asserts it
at once. The queue that orders them is the model's (log entries 1 and 2). -/
def Obligations.InterruptFollowsDoneAndEnable : Prop :=
  (∀ (s t : State), PerformsNext s → step s = .next t → irq t = s.ie ∧ t.done = true) ∧
  (∀ (s t : State) (rest : List HostOp) (v : Word), ServesNext (.write 0x010 4 v) rest s → v.getLsbD 1 = true →
    step s = .next t → irq t = false) ∧
  (∀ (s t : State) (rest : List HostOp) (w : Word), ServesNext (.write 0x014 4 w) rest s → s.busy = false →
    step s = .next t → irq t = false) ∧
  (∀ (s t : State) (rest : List HostOp), ServesNext .reset rest s → step s = .next t → irq t = false) ∧
  (∀ (s t : State) (rest : List HostOp) (v : Word), ServesNext (.write 0x00C 4 v) rest s → step s = .next t →
    irq t = (s.done && v.getLsbD 0) ∧ t.done = s.done)

/-! ### Control: NOP -/

/-- 44_control.md R180: NOP, the word 0, completes with code 0 and RESULT 0 and changes nothing else. -/
def Obligations.NopCompletesWithoutEffect : Prop :=
  decode 0x00000000#32 = .ok .nop ∧ ∀ s : State, exec .nop s = .next (s.ended 0 0)

/-! ### The packer -/

/-- 40_packer.md R115: PACK, the word 1, writes the six packed bytes, each field modulo its width, and nothing else; it
never fails. -/
def Obligations.PackWritesPackedBytes : Prop :=
  decode 0x00000001#32 = .ok .pack ∧
  ∀ s : State, ∃ t : State, exec .pack s = .next t ∧ t = { s.ended 0 0 with mem := t.mem } ∧
    (∀ k < 6, (loadByte t (packedAddr k)).toNat = Spec.packedByte s.fields k) ∧
    (∀ a, ¬(0x080 ≤ a ∧ a < 0x086) → loadByte t a = loadByte s a)

/-- 40_packer.md R116, R113: UNPACK, the word 2, extracts every field of PACKED[0..5] into its register, and changes
nothing else, F_CHECKSUM and PAYLOAD included. -/
def Obligations.UnpackExtractsFields : Prop :=
  decode 0x00000002#32 = .ok .unpack ∧
  ∀ s : State, ∃ f : Fields, exec .unpack s = .next { s.ended 0 0 with fields := f } ∧
    Spec.FieldsOf (fun k => (loadByte s (packedAddr k)).toNat) f

/-- 40_packer.md R117, R118: CLEAR, the word 8, writes 0 to the field registers, F_CHECKSUM, PACKED[0..5] and
PAYLOAD[0..254], and changes nothing else; F_CODETAG then reads 0. -/
def Obligations.ClearZeroesMessageState : Prop :=
  decode 0x00000008#32 = .ok .clear ∧
  ∀ s : State, ∃ t : State, exec .clear s = .next t ∧
    t = { s.ended 0 0 with mem := t.mem, fields := ⟨0, 0, 0, 0, 0, 0, 0, 0, 0, 0, 0⟩, checksum := 0 } ∧
    (∀ k < 6, loadByte t (packedAddr k) = 0) ∧ (∀ j < 255, loadByte t (payloadAddr j) = 0) ∧
    readReg t .fCodeTag = 0 ∧
    (∀ a, ¬(0x080 ≤ a ∧ a < 0x086) → ¬(0x100 ≤ a ∧ a < 0x1FF) → loadByte t a = loadByte s a)

/-- 40_packer.md R119: packing what was unpacked gives the six bytes back; unpacking what was packed gives each field
masked to its width; hence PACK then UNPACK keeps field registers within their widths. -/
def Obligations.PackAndUnpackAreInverse : Prop :=
  (∀ p : Packed, packBytes (unpackBytes p) = p) ∧
  (∀ f : Fields, Spec.Masked f (unpackBytes (packBytes f))) ∧
  (∀ s : State, Spec.WithinWidths s.fields →
    ∃ t u : State, exec .pack s = .next t ∧ exec .unpack t = .next u ∧ u.fields = s.fields)

/-- 40_packer.md R110, R112, R121: each packed byte is the sum over the rows of the layout table in that byte of the
field's value modulo 2 to its width, times 2 to its offset. -/
def Obligations.PackBytesFollowLayoutTable : Prop :=
  ∀ (f : Fields), ∀ k < 6,
    (((packBytes f).toList.getD k 0).toNat) =
      ((Config.fieldLayout.filter (fun r => r.byte == k)).map
        (fun r => Spec.fieldValue f r.name % 2 ^ r.width * 2 ^ r.offset)).sum

/-- 40_packer.md R111: in each packed byte, the masks of its fields are pairwise disjoint, and their union is 0xFF. -/
def Obligations.LayoutMasksTileEveryByte : Prop :=
  (∀ r₁ ∈ Config.fieldLayout, ∀ r₂ ∈ Config.fieldLayout, r₁.byte = r₂.byte → r₁ ≠ r₂ → r₁.mask &&& r₂.mask = 0) ∧
  (∀ k < 6, ((Config.fieldLayout.filter (fun r => r.byte == k)).map FieldSlot.mask).foldl (· ||| ·) 0 = 0xFF)

/-- 10_state.md R43: F_CODETAG, at offset 0x05C, reads 0 where the low three bits of F_CODECLASS are REQUEST_CLASS, 1
otherwise, at every read, and 0 after reset; a write to it is ignored. -/
def Obligations.CodetagFollowsCodeClass : Prop :=
  Reg.ofOffset 0x05C = some .fCodeTag ∧
  (∀ s : State, readReg s .fCodeTag = if s.fields.codeClass.toNat % 8 = Config.requestClass then 0 else 1) ∧
  (∀ (s : State) (v : Word), writeReg .fCodeTag v s = s) ∧
  readReg State.reset .fCodeTag = 0

/-! ### The checksum -/

/-- 41_checksum.md R132: CKSUM, the word 3, with F_BYTECOUNT at most 255 writes the checksum of the packed bytes and the
payload to F_CHECKSUM and RESULT; above 255 it records PayloadTooLarge (2); it changes nothing else. -/
def Obligations.CksumWritesChecksum : Prop :=
  decode 0x00000003#32 = .ok .cksum ∧
  ∀ s : State,
    (s.fields.byteCount.toNat ≤ 255 → exec .cksum s =
      .next { s.ended 0 (BitVec.ofNat 16 (Spec.checksum s)) with checksum := BitVec.ofNat 8 (Spec.checksum s) }) ∧
    (255 < s.fields.byteCount.toNat → exec .cksum s = .next (s.ended 2 0))

/-- 41_checksum.md R133: VALIDATE with F_BYTECOUNT at most 255 returns 1 where its operand is the checksum, 0 where it is
not, in both cases without an error; above 255 it records PayloadTooLarge (2); it changes nothing else. -/
def Obligations.ValidateComparesChecksum : Prop :=
  ∀ (s : State) (b : Byte),
    decode (BitVec.ofNat 32 (0x04 + b.toNat * 2 ^ 8)) = .ok (.validate b) ∧
    (s.fields.byteCount.toNat ≤ 255 →
      exec (.validate b) s = .next (s.ended 0 (if b.toNat = Spec.checksum s then 1 else 0))) ∧
    (255 < s.fields.byteCount.toNat → exec (.validate b) s = .next (s.ended 2 0))

/-- 41_checksum.md R134: the packed bytes, the payload and the checksum together sum to 0 modulo 256, and so do the bytes
of the frame that ENCODE writes, the start marker left out. -/
def Obligations.FrameBytesSumToZero : Prop :=
  ∀ s : State, s.fields.byteCount.toNat ≤ 255 →
    (Spec.messageSum s + (computeChecksum s).toNat) % 256 = 0 ∧
    ∃ t : State, exec .encode s = .next t ∧ Spec.frameSum t s.fields.byteCount.toNat % 256 = 0

/-- 41_checksum.md R135: changing one byte of the packed bytes or the payload changes the checksum. -/
def Obligations.OneByteChangeChangesChecksum : Prop :=
  ∀ (p p' : Packed) (q q' before after : List Byte) (a b : Byte), a ≠ b →
    p.toList ++ q = before ++ a :: after → p'.toList ++ q' = before ++ b :: after → checksumOf p q ≠ checksumOf p' q'

/-! ### The hex codec -/

/-- 42_hex_codec.md R140: hexval gives every hex digit of either case its value, and no other character one. -/
def Obligations.HexvalAcceptsExactlyHexDigits : Prop :=
  ∀ c : Byte, (hexval c).map BitVec.toNat = Spec.digit c

/-- 42_hex_codec.md R141, R142, R143: the pair that renders a byte parses back to that byte. -/
def Obligations.RenderedPairParsesBack : Prop :=
  ∀ b : Byte, hexPair ((renderPair b).getD 0 0) ((renderPair b).getD 1 0) = .ok b

/-- 42_hex_codec.md R146: ENCODE, the word 5, with F_BYTECOUNT at most 255 writes MARKER, then the packed bytes, the
payload and the checksum as upper-case pairs; it writes PACKED and F_CHECKSUM, returns the frame's length, and changes
nothing else. Above 255 it records PayloadTooLarge (2) and changes nothing else. -/
def Obligations.EncodeRendersFrame : Prop :=
  decode 0x00000005#32 = .ok .encode ∧
  ∀ s : State,
    (255 < s.fields.byteCount.toNat → exec .encode s = .next (s.ended 2 0)) ∧
    (s.fields.byteCount.toNat ≤ 255 → ∃ t : State, exec .encode s = .next t ∧
      t = { s.ended 0 (BitVec.ofNat 16 (15 + 2 * s.fields.byteCount.toNat)) with
            mem := t.mem, checksum := BitVec.ofNat 8 (Spec.checksum s) } ∧
      textChar t 0 = 0x3A#8 ∧
      (∀ k < 6, Spec.ShowsByte t (1 + 2 * k) (Spec.packedByte s.fields k)) ∧
      (∀ j < s.fields.byteCount.toNat, Spec.ShowsByte t (13 + 2 * j) (loadByte s (payloadAddr j)).toNat) ∧
      Spec.ShowsByte t (13 + 2 * s.fields.byteCount.toNat) (Spec.checksum s) ∧
      (∀ k < 6, (loadByte t (packedAddr k)).toNat = Spec.packedByte s.fields k) ∧
      (∀ a, ¬(0x080 ≤ a ∧ a < 0x086) → ¬(0x400 ≤ a ∧ a < 0x400 + (15 + 2 * s.fields.byteCount.toNat)) →
        loadByte t a = loadByte s a))

/-- 42_hex_codec.md R147, 60_exceptions.md R208: DECODE records the first error in the order of its checks, or success
with the frame's length. -/
def Obligations.DecodeRecordsFirstError : Prop :=
  ∀ s : State, ∃ t : State, exec .decode s = .next t ∧ t.err.toNat = (Spec.decodeCode s).1 ∧
    t.result.toNat = (if (Spec.decodeCode s).1 = 0 then 15 + 2 * (Spec.decodeCode s).2 else 0) ∧
    t = { s.ended t.err t.result with mem := t.mem, fields := t.fields, checksum := t.checksum }

/-- 42_hex_codec.md R147: where every check passes, DECODE writes the frame's bytes to PACKED, PAYLOAD and F_CHECKSUM,
the fields to their registers, 0 to the rest of PAYLOAD, and changes nothing else. -/
def Obligations.DecodeWritesMessage : Prop :=
  ∀ (s : State) (bc : Nat), Spec.decodeCode s = (0, bc) →
    ∃ t : State, exec .decode s = .next t ∧
      t = { s.ended 0 (BitVec.ofNat 16 (15 + 2 * bc)) with mem := t.mem, fields := t.fields, checksum := t.checksum } ∧
      (∀ k < 6, some (loadByte t (packedAddr k)).toNat = Spec.textPair s (1 + 2 * k)) ∧
      (∀ j < bc, some (loadByte t (payloadAddr j)).toNat = Spec.textPair s (13 + 2 * j)) ∧
      (∀ j, bc ≤ j → j < 255 → loadByte t (payloadAddr j) = 0) ∧
      some t.checksum.toNat = Spec.textPair s (13 + 2 * bc) ∧
      Spec.FieldsOf (fun k => (loadByte t (packedAddr k)).toNat) t.fields ∧
      (∀ a, ¬(0x080 ≤ a ∧ a < 0x086) → ¬(0x100 ≤ a ∧ a < 0x1FF) → loadByte t a = loadByte s a)

/-- 42_hex_codec.md R149: when DECODE raises an error the message state is all zero; TEXT, DECL_LEN and CTRL are not
changed in any case. -/
def Obligations.DecodeErrorLeavesZeroMessage : Prop :=
  ∀ s t : State, exec .decode s = .next t →
    (t.err ≠ 0 → t.fields = ⟨0, 0, 0, 0, 0, 0, 0, 0, 0, 0, 0⟩ ∧ t.checksum = 0 ∧
      (∀ k < 8, loadByte t (packedAddr k) = 0) ∧ (∀ j < 255, loadByte t (payloadAddr j) = 0)) ∧
    (∀ i < 528, textChar t i = textChar s i) ∧ t.declLen = s.declLen ∧ t.ie = s.ie

/-- 42_hex_codec.md R148: DECODE reads nothing at or beyond the frame's length: two states that agree on the frame's
characters, whatever else they hold and with any sufficient DECL_LEN, get the same message, code and RESULT. -/
def Obligations.DecodeIgnoresTextBeyondFrame : Prop :=
  ∀ (s₁ s₂ : State) (bc : Nat), Spec.textPair s₁ 1 = some bc →
    15 + 2 * bc ≤ s₁.declLen.toNat → 15 + 2 * bc ≤ s₂.declLen.toNat →
    (∀ i < 15 + 2 * bc, textChar s₁ i = textChar s₂ i) →
    ∃ t₁ t₂ : State, exec .decode s₁ = .next t₁ ∧ exec .decode s₂ = .next t₂ ∧
      t₁.err = t₂.err ∧ t₁.result = t₂.result ∧ t₁.fields = t₂.fields ∧ t₁.checksum = t₂.checksum ∧
      (∀ k < 6, loadByte t₁ (packedAddr k) = loadByte t₂ (packedAddr k)) ∧
      (∀ j < 255, loadByte t₁ (payloadAddr j) = loadByte t₂ (payloadAddr j))

/-- 42_hex_codec.md R153: ENCODE, then DECODE with DECL_LEN at RESULT or anything larger, succeeds and gives the encoded
message back: its fields masked to their widths (unchanged where they are within them), its payload, its checksum, and
0 in the rest of PAYLOAD. -/
def Obligations.EncodeThenDecodeRoundTrips : Prop :=
  ∀ s : State, s.fields.byteCount.toNat ≤ 255 →
    ∃ t : State, exec .encode s = .next t ∧
      ∀ len : Half, t.result.toNat ≤ len.toNat →
        ∃ u : State, exec .decode { t with declLen := len } = .next u ∧ u.err = 0 ∧ u.result = t.result ∧
          Spec.Masked s.fields u.fields ∧ (Spec.WithinWidths s.fields → u.fields = s.fields) ∧
          u.checksum = t.checksum ∧
          (∀ j < s.fields.byteCount.toNat, loadByte u (payloadAddr j) = loadByte s (payloadAddr j)) ∧
          (∀ j, s.fields.byteCount.toNat ≤ j → j < 255 → loadByte u (payloadAddr j) = 0)

/-- 42_hex_codec.md R150: H2B returns the byte of two hex digits, the first the high nibble; where either character is no
hex digit it records InvalidHexDigit (8) and RESULT 0; it changes nothing else. -/
def Obligations.H2bConvertsPair : Prop :=
  ∀ (s : State) (hi lo : Byte),
    decode (BitVec.ofNat 32 (0x0A + hi.toNat * 2 ^ 8 + lo.toNat * 2 ^ 16)) = .ok (.h2b hi lo) ∧
    (∀ n, Spec.pair hi lo = some n → exec (.h2b hi lo) s = .next (s.ended 0 (BitVec.ofNat 16 n))) ∧
    (Spec.pair hi lo = none → exec (.h2b hi lo) s = .next (s.ended 8 0))

/-- 42_hex_codec.md R151: B2H returns the upper-case digit of the high nibble in RESULT[7:0] and that of the low nibble
in RESULT[15:8], and changes nothing else. -/
def Obligations.B2hReturnsTwoDigits : Prop :=
  ∀ (s : State) (b : Byte),
    decode (BitVec.ofNat 32 (0x0B + b.toNat * 2 ^ 8)) = .ok (.b2h b) ∧
    exec (.b2h b) s =
      .next (s.ended 0 (BitVec.ofNat 16 (Spec.upperDigit (b.toNat / 16) + 256 * Spec.upperDigit (b.toNat % 16))))

/-- 42_hex_codec.md R152: ISMARK returns 1 for the single code 0x3A and 0 for every other, and changes nothing else. -/
def Obligations.IsmarkTestsMarker : Prop :=
  ∀ (s : State) (c : Byte),
    decode (BitVec.ofNat 32 (0x09 + c.toNat * 2 ^ 8)) = .ok (.ismark c) ∧
    exec (.ismark c) s = .next (s.ended 0 (if c.toNat = 0x3A then 1 else 0))

/-! ### The frame sizer -/

/-- 43_frame_sizer.md R172: FRAMELEN, the word 7, with DECL_LEN at least 15 and hex digits in TEXT[1..2] returns 15 plus
twice their byte, whatever TEXT[0] is; with DECL_LEN below 15 it records FrameTooShort (4), else, where TEXT[1] or TEXT[2]
is no hex digit, InvalidHexDigit (8); it changes nothing else. -/
def Obligations.FramelenPredictsLength : Prop :=
  decode 0x00000007#32 = .ok .framelen ∧
  ∀ s : State,
    (s.declLen.toNat < 15 → exec .framelen s = .next (s.ended 4 0)) ∧
    (15 ≤ s.declLen.toNat → Spec.textPair s 1 = none → exec .framelen s = .next (s.ended 8 0)) ∧
    (∀ bc, 15 ≤ s.declLen.toNat → Spec.textPair s 1 = some bc →
      exec .framelen s = .next (s.ended 0 (BitVec.ofNat 16 (15 + 2 * bc))))

/-- 43_frame_sizer.md R173: where FRAMELEN succeeds, DECODE of the same text with a declared length from 15 up to below
its RESULT records FrameIncomplete (5), below 15 FrameTooShort (4), and a successful DECODE returns the same RESULT. -/
def Obligations.FramelenIsDecodeNeed : Prop :=
  ∀ (s t : State), exec .framelen s = .next t → t.err = 0 →
    ∀ len : Half, ∃ u : State, exec .decode { s with declLen := len } = .next u ∧
      (len.toNat < 15 → u.err = 4) ∧
      (15 ≤ len.toNat → len.toNat < t.result.toNat → u.err = 5) ∧
      (t.result.toNat ≤ len.toNat → u.err ≠ 4 ∧ u.err ≠ 5) ∧
      (u.err = 0 → u.result = t.result)

/-! ### The host's bus -/

/-- 10_state.md R32: a word write to CMD while idle accepts the command, whatever the word. The wait and the draw are the
model's (log entry 2), and so are the queue (log entry 1) and the response field with its data 0 (log entry 9). -/
def Obligations.CmdWriteAcceptsCommand : Prop :=
  ∀ (s : State) (rest : List HostOp) (w : Word), ServesNext (.write 0x014 4 w) rest s → s.busy = false →
    step s = .next { s with
      inputs := rest
      cmd := w
      pending := w
      busy := true
      done := false
      wait := Config.transactionsBeforePerform s.draws
      draws := s.draws + 1
      response := some ⟨.okay, 0⟩ }

/-- 70_reset_and_hazards.md R245: while BUSY, a permitted write to any offset but CTRL and STATUS only sets WERR, with
OKAY; writes to CTRL and STATUS take effect; a write that gets ERROR does not set WERR. The queue and the wait are the model's
(log entries 1 and 2), and so are the response field and the data 0 of a write's response (log entry 9). -/
def Obligations.BusyWritesFollowHazardRule : Prop :=
  ∀ (s : State) (a n : Nat) (v : Word) (rest : List HostOp), ServesNext (.write a n v) rest s → s.busy = true →
    a < 2048 →
    (Spec.permitted a n = true → a ≠ 0x00C → a ≠ 0x010 →
      step s = .next { s.afterTaking rest with werr := true, response := some ⟨.okay, 0⟩ }) ∧
    (a = 0x00C → n = 4 →
      step s = .next { s.afterTaking rest with ie := v.getLsbD 0, response := some ⟨.okay, 0⟩ }) ∧
    (a = 0x010 → n = 4 →
      step s = .next { s.afterTaking rest with
        done := s.done && !v.getLsbD 1, werr := s.werr && !v.getLsbD 2, response := some ⟨.okay, 0⟩ }) ∧
    (Spec.permitted a n = false →
      step s = .next { s.afterTaking rest with response := some ⟨.error, 0⟩ })

/-- 10_state.md R26, R27: while idle too, a write of CTRL stores IE from bit 0, and a write of STATUS clears DONE where
bit 1 is 1 and WERR where bit 2 is 1; neither changes anything else.
The queue and the response field are the model's (log entries 1 and 9). -/
def Obligations.IdleCtrlAndStatusWrites : Prop :=
  ∀ (s : State) (v : Word) (rest : List HostOp), s.busy = false →
    (ServesNext (.write 0x00C 4 v) rest s →
      step s = .next { s.afterTaking rest with ie := v.getLsbD 0, response := some ⟨.okay, 0⟩ }) ∧
    (ServesNext (.write 0x010 4 v) rest s →
      step s = .next { s.afterTaking rest with
        done := s.done && !v.getLsbD 1, werr := s.werr && !v.getLsbD 2, response := some ⟨.okay, 0⟩ })

/-- 20_memory.md R66, with the conditions of R62 to R65: an access that gets ERROR changes no state, and returns data
0.
The queue and the response field are the model's (log entries 1 and 9). -/
def Obligations.ErrorAccessChangesNothing : Prop :=
  ∀ (s : State) (a n : Nat) (rest : List HostOp), a < 2048 → Spec.permitted a n = false →
    (ServesNext (.read a n) rest s →
      step s = .next { s.afterTaking rest with response := some ⟨.error, 0⟩ }) ∧
    (∀ v, ServesNext (.write a n v) rest s →
      step s = .next { s.afterTaking rest with response := some ⟨.error, 0⟩ })

/-- 20_memory.md R60: an access at or above BASE + 0x800 does not select the block. That it then has no effect and no
response is the model's reading (log entry 8).
The queue and the response field are the model's (log entries 1 and 9). -/
def Obligations.UnselectedAccessHasNoEffect : Prop :=
  ∀ (s : State) (a n : Nat) (rest : List HostOp), 2048 ≤ a →
    (ServesNext (.read a n) rest s → step s = .next { s.afterTaking rest with response := none }) ∧
    (∀ v, ServesNext (.write a n v) rest s → step s = .next { s.afterTaking rest with response := none })

/-- 10_state.md R35, R34: an idle write to DECL_LEN or a RW field register stores the low bits of the word, unmasked to
the wire width; reading the register gives them zero-extended, and no other stored register changes.
The queue and the response field are the model's (log entries 1 and 9). -/
def Obligations.RegisterWriteStoresLowBits : Prop :=
  ∀ (s : State) (v : Word) (rest : List HostOp), ∀ e ∈ Spec.storedWidths,
    ServesNext (.write e.1 4 v) rest s → s.busy = false →
    ∃ (t : State) (r : Reg), step s = .next t ∧ Reg.ofOffset e.1 = some r ∧
      (readReg t r).toNat = v.toNat % 2 ^ e.2 ∧
      (∀ r', r' ≠ r → r' ≠ .fCodeTag → readReg t r' = readReg s r') ∧
      t = { s.afterTaking rest with
            fields := t.fields, checksum := t.checksum, declLen := t.declLen, response := some ⟨.okay, 0⟩ }

/-- 10_state.md R21, 20_memory.md R61: an idle write to a read-only register (ID, PARAM, FRAMELIM, RESULT, F_CODETAG) is
ignored with OKAY.
The queue and the response field are the model's (log entries 1 and 9). -/
def Obligations.ReadOnlyWritesAreIgnored : Prop :=
  ∀ (s : State) (v : Word) (rest : List HostOp), ∀ a ∈ Spec.readOnlyOffsets,
    ServesNext (.write a 4 v) rest s → s.busy = false →
    step s = .next { s.afterTaking rest with response := some ⟨.okay, 0⟩ }

/-- 20_memory.md R67, R65, 10_state.md R49, R50: an idle permitted write to a buffer stores the word's bytes at rising
offsets, the lowest first; a byte without storage reads 0 as before; every other byte and all else is as before.
The queue and the response field are the model's (log entries 1 and 9). -/
def Obligations.BufferWritesAreLittleEndian : Prop :=
  ∀ (s : State) (a n : Nat) (v : Word) (rest : List HostOp), ServesNext (.write a n v) rest s → s.busy = false →
    0x080 ≤ a → a < 2048 → Spec.permitted a n = true →
    ∃ t : State, step s = .next t ∧
      t = { s.afterTaking rest with mem := t.mem, response := some ⟨.okay, 0⟩ } ∧
      (∀ k < n, isStorage (a + k) = true → (loadByte t (a + k)).toNat = v.toNat / 256 ^ k % 256) ∧
      (∀ k < n, isStorage (a + k) = false → loadByte t (a + k) = 0) ∧
      (∀ x, x < a ∨ a + n ≤ x → loadByte t x = loadByte s x)

/-- 20_memory.md R60, R67, R71, 10_state.md R22: an idle read returns what the register map shows of the state, the byte,
or the little-endian word, with OKAY, and changes nothing.
The queue and the response field are the model's (log entries 1 and 9). -/
def Obligations.IdleReadsReturnStoredValues : Prop :=
  ∀ (s : State) (rest : List HostOp), s.busy = false →
    (∀ e ∈ Spec.registerRows s, ServesNext (.read e.offset 4) rest s →
      step s = .next { s.afterTaking rest with response := some ⟨.okay, BitVec.ofNat 32 e.value⟩ }) ∧
    (∀ a r, Reg.ofOffset a = some r → ServesNext (.read a 4) rest s →
      step s = .next { s.afterTaking rest with response := some ⟨.okay, readReg s r⟩ }) ∧
    (∀ a, Spec.permitted a 1 = true → ServesNext (.read a 1) rest s →
      step s = .next { s.afterTaking rest with response := some ⟨.okay, (loadByte s a).setWidth 32⟩ }) ∧
    (∀ a, 0x080 ≤ a → Spec.permitted a 4 = true → ServesNext (.read a 4) rest s →
      ∃ d : Word, step s = .next { s.afterTaking rest with response := some ⟨.okay, d⟩ } ∧
        d.toNat = (loadByte s a).toNat + (loadByte s (a + 1)).toNat * 256 + (loadByte s (a + 2)).toNat * 256 ^ 2 +
          (loadByte s (a + 3)).toNat * 256 ^ 3)

/-- 20_memory.md R70: a word read after byte writes to its four bytes gives those bytes, the lowest first; a byte read
after a word write gives the byte that R67 stores there. -/
def Obligations.MixedWidthViewsAgree : Prop :=
  (∀ (s : State) (a : Nat) (b : Nat → Byte), (∀ k < 4, isStorage (a + k) = true) →
    (loadWord (storeByte (a + 3) (b 3) (storeByte (a + 2) (b 2) (storeByte (a + 1) (b 1) (storeByte a (b 0) s)))) a).toNat =
      (b 0).toNat + (b 1).toNat * 256 + (b 2).toNat * 256 ^ 2 + (b 3).toNat * 256 ^ 3) ∧
  (∀ (s : State) (a : Nat) (v : Word), ∀ k < 4, isStorage (a + k) = true →
    (loadByte (storeWord a v s) (a + k)).toNat = v.toNat / 256 ^ k % 256)

/-- 20_memory.md R71: a read, while idle or BUSY, has no side effect on the block: only the response and the model's own
input queue, wait and draw counter move.
The queue and the response field are the model's (log entries 1 and 9). -/
def Obligations.ReadsHaveNoSideEffect : Prop :=
  ∀ (s : State) (a n : Nat) (rest : List HostOp), ServesNext (.read a n) rest s →
    ∃ t : State, step s = .next t ∧ t = { s.afterTaking rest with response := t.response, draws := t.draws }

/-- 70_reset_and_hazards.md R246, with log entries 5 and 6 (the form of the draw and the reading of the write sets):
while BUSY, whatever word is in flight, a read of RESULT or of a register of the write set returns a fresh draw in the
register's bits, and any other register returns what it shows of the state; a byte read of a buffer likewise; in a word
read of a buffer each byte of the write set is a byte of one fresh draw, the others are current. An illegal word in flight
leaves only RESULT free.
The queue and the response field are the model's (log entries 1 and 9). -/
def Obligations.BusyReadsOfWriteSetAreFree : Prop :=
  ∀ (s : State) (rest : List HostOp), s.busy = true →
    (∀ e ∈ Spec.registerRows s, ServesNext (.read e.offset 4) rest s →
      (Spec.unspecifiedAt s e.offset = true →
        step s = .next { s.afterTaking rest with
          draws := s.draws + 1
          response := some ⟨.okay, BitVec.ofNat 32 ((Config.busyRead s.draws).toNat % 2 ^ e.width)⟩ }) ∧
      (Spec.unspecifiedAt s e.offset = false →
        step s = .next { s.afterTaking rest with response := some ⟨.okay, BitVec.ofNat 32 e.value⟩ })) ∧
    (∀ a, Spec.permitted a 1 = true → ServesNext (.read a 1) rest s →
      (Spec.unspecifiedAt s a = true →
        step s = .next { s.afterTaking rest with
          draws := s.draws + 1
          response := some ⟨.okay, BitVec.ofNat 32 ((Config.busyRead s.draws).toNat % 256)⟩ }) ∧
      (Spec.unspecifiedAt s a = false →
        step s = .next { s.afterTaking rest with response := some ⟨.okay, (loadByte s a).setWidth 32⟩ })) ∧
    (∀ a, 0x080 ≤ a → Spec.permitted a 4 = true → ServesNext (.read a 4) rest s →
      ∃ d : Word,
        step s = .next { s.afterTaking rest with
          draws := if ∃ k < 4, Spec.unspecifiedAt s (a + k) = true then s.draws + 1 else s.draws
          response := some ⟨.okay, d⟩ } ∧
        ∀ k < 4, d.toNat / 256 ^ k % 256 =
          if Spec.unspecifiedAt s (a + k) = true then (Config.busyRead s.draws).toNat / 256 ^ k % 256
          else (loadByte s (a + k)).toNat)

/-- 20_memory.md R81, 10_state.md R28: while a command is in flight, serving anything but a reset leaves the command, its
inputs and its results as they are: only CTRL.IE, DONE, WERR, the response and the model's own fields can change.
The queue and the response field are the model's (log entries 1 and 9). -/
def Obligations.CommandInputsAreFrozenWhileBusy : Prop :=
  ∀ (s : State) (op : HostOp) (rest : List HostOp), s.busy = true → ServesNext op rest s → op ≠ .reset →
    ∃ t : State, step s = .next t ∧
      t = { s with
            ie := t.ie, done := t.done, werr := t.werr, response := t.response, inputs := t.inputs, wait := s.wait - 1,
            draws := t.draws }

/-- 30_encoding.md R97: POLL reads STATUS, and goes on exactly while BUSY is 1.
The queue, the response field and the loop as an
input are the model's (log entries 1, 9 and 11). -/
def Obligations.PollWaitsForCompletion : Prop :=
  ∀ (s : State) (rest : List HostOp), ServesNext .poll rest s →
    step s = .next { s.afterTaking rest with
      response := some ⟨.okay, statusWord s⟩
      inputs := if s.busy then .poll :: rest else rest }

/-- 10_state.md R22, R23 to R27, R32 to R48: in every state each offset of the register map shows its own field of the
state, within its width, and no other offset is a register. -/
def Obligations.RegistersShowTheirFields : Prop :=
  ∀ s : State,
    (∀ e ∈ Spec.registerRows s, e.value < 2 ^ e.width ∧
      ∃ r, Reg.ofOffset e.offset = some r ∧ (readReg s r).toNat = e.value) ∧
    (∀ a r, Reg.ofOffset a = some r → ∃ e ∈ Spec.registerRows s, e.offset = a)

/-- 10_state.md R27: STATUS reads BUSY in bit 0, DONE in bit 1, WERR in bit 2, ERR in bits 11:8, and 0 elsewhere. -/
def Obligations.StatusWordHasStatedLayout : Prop :=
  ∀ s : State, (statusWord s).toNat = s.busy.toNat + 2 * s.done.toNat + 4 * s.werr.toNat + 256 * s.err.toNat

/-- 10_state.md R49, R50: PACKED[6..7] and PAYLOAD[255] read 0 in every state, and a write to them is ignored. -/
def Obligations.UnstoredBytesReadZero : Prop :=
  ∀ (s : State) (b : Byte), ∀ a ∈ [0x086, 0x087, 0x1FF], loadByte s a = 0 ∧ storeByte a b s = s
end

