-- ==== Sys2Proof/Laws/Bus.lean ====
section
/-! SUPPORT. What the host's bus and the scheduler can do, case by case: cite these instead of unfolding `serveRead`,
`serveWrite`, `target` and `nextAgent`. -/

namespace Sys2Proof.Machine

/-! ### Who acts next -/

theorem nextAgent_of_performsNext {s : State} (h : PerformsNext s) : nextAgent s = .engine := by
  obtain ⟨hb, h | h⟩ := h <;> unfold nextAgent <;> split <;> simp_all

theorem nextAgent_of_servesNext {s : State} {op : HostOp} {rest : List HostOp} (h : ServesNext op rest s) :
    nextAgent s = .outside op rest := by
  obtain ⟨hi, h⟩ := h
  unfold nextAgent
  rw [hi]
  rcases h with h | h <;> simp [h]

/-! ### What an access selects -/

/-- Inside the window, an access selects something exactly where 20_memory.md R62 to R65 permit it. -/
theorem target_isSome {a : Nat} (n : Nat) (ha : a < 2048) : (target a n).isSome = Spec.permitted a n := by
  have key : ∀ a < 2048, (target a 1).isSome = Spec.permitted a 1 ∧ (target a 4).isSome = Spec.permitted a 4 := by
    decide +kernel
  by_cases h1 : n = 1
  · subst h1; exact (key a ha).1
  by_cases h4 : n = 4
  · subst h4; exact (key a ha).2
  · simp [target, Spec.permitted, h1, h4]

theorem target_eq_none {a n : Nat} (ha : a < 2048) (hp : Spec.permitted a n = false) : target a n = none := by
  have := target_isSome n ha
  rw [hp] at this
  simpa using this

theorem target_size {a n : Nat} {t : Target} (h : target a n = some t) : n = 1 ∨ n = 4 := by
  by_contra hn
  unfold target at h
  rw [if_neg (by omega), if_neg (by omega)] at h
  cases h

/-- A word at a mapped register's offset selects the register. -/
theorem target_of_reg {a : Nat} {r : Reg} (h : Reg.ofOffset a = some r) : target a 4 = some (.reg r) ∧ a < 2048 := by
  unfold Reg.ofOffset at h
  split at h <;> cases h <;> exact ⟨rfl, by decide⟩

theorem inBuffer_iff (a : Nat) :
    inBuffer a = true ↔ (0x080 ≤ a ∧ a < 0x088) ∨ (0x100 ≤ a ∧ a < 0x200) ∨ (0x400 ≤ a ∧ a < 0x610) := by
  simp [inBuffer, or_assoc]

/-- A permitted byte access selects the byte of the buffer. -/
theorem target_byte {a : Nat} (hp : Spec.permitted a 1 = true) : target a 1 = some (.byte a) ∧ a < 2048 := by
  have hb : inBuffer a = true := by
    rw [inBuffer_iff]
    unfold Spec.permitted at hp
    simp at hp
    omega
  refine ⟨by simp [target, hb], ?_⟩
  rw [inBuffer_iff] at hb
  omega

/-- A permitted word access to a buffer selects the word. -/
theorem target_word {a : Nat} (ha : 0x080 ≤ a) (hp : Spec.permitted a 4 = true) :
    target a 4 = some (.word a) ∧ a < 2048 := by
  have hb : inBuffer a = true ∧ a % 4 = 0 := by
    rw [inBuffer_iff]
    unfold Spec.permitted at hp
    simp at hp
    omega
  refine ⟨by simp [target, hb.1, hb.2, show ¬a < 128 by omega], ?_⟩
  rw [inBuffer_iff] at hb
  omega

/-- Only CTRL and STATUS are writable while BUSY, and only at their own offsets. -/
theorem writableWhileBusy_eq_false {a n : Nat} {t : Target} (ha : a < 2048) (h1 : a ≠ 0x00C) (h2 : a ≠ 0x010)
    (ht : target a n = some t) : writableWhileBusy t = false := by
  have key : ∀ a < 2048, a ≠ 0x00C → a ≠ 0x010 → ((target a 1).all (fun t => !writableWhileBusy t) = true ∧
      (target a 4).all (fun t => !writableWhileBusy t) = true) := by decide +kernel
  rcases target_size ht with rfl | rfl
  · have := (key a ha h1 h2).1; rw [ht] at this; simpa using this
  · have := (key a ha h1 h2).2; rw [ht] at this; simpa using this

/-! ### Transactions -/

theorem serveRead_unselected {a : Nat} (n : Nat) (s : State) (h : 2048 ≤ a) : serveRead a n s = notSelected s :=
  if_neg (Nat.not_lt.2 h)

theorem serveRead_error {a n : Nat} (s : State) (ha : a < 2048) (ht : target a n = none) :
    serveRead a n s = respond errorResponse s := by
  unfold serveRead
  rw [if_pos (show a < Config.windowSize from ha), ht]

theorem serveRead_okay {a n : Nat} {t : Target} {s : State} (ha : a < 2048) (ht : target a n = some t)
    (hu : targetUnspecified s t = false) : serveRead a n s = respond ⟨.okay, readTarget s t⟩ s := by
  unfold serveRead
  rw [if_pos (show a < Config.windowSize from ha), ht]
  simp only [hu, Bool.false_eq_true, if_false]

theorem serveRead_draw {a n : Nat} {t : Target} {s : State} (ha : a < 2048) (ht : target a n = some t)
    (hu : targetUnspecified s t = true) :
    serveRead a n s =
      respond ⟨.okay, shownData s (Config.busyRead s.draws) t⟩ { s with draws := s.draws + 1 } := by
  unfold serveRead
  rw [if_pos (show a < Config.windowSize from ha), ht]
  simp only [hu, if_true]

theorem serveWrite_unselected {a : Nat} (n : Nat) (v : Word) (s : State) (h : 2048 ≤ a) :
    serveWrite a n v s = notSelected s :=
  if_neg (Nat.not_lt.2 h)

theorem serveWrite_error {a n : Nat} (v : Word) (s : State) (ha : a < 2048) (ht : target a n = none) :
    serveWrite a n v s = respond errorResponse s := by
  unfold serveWrite
  rw [if_pos (show a < Config.windowSize from ha), ht]

theorem serveWrite_dropped {a n : Nat} {t : Target} {s : State} (v : Word) (ha : a < 2048)
    (ht : target a n = some t) (hb : s.busy = true) (hw : writableWhileBusy t = false) :
    serveWrite a n v s = respond okayWrite (dropWrite s) := by
  unfold serveWrite
  rw [if_pos (show a < Config.windowSize from ha), ht]
  simp only [hb, hw, Bool.not_false, Bool.and_true, if_true]

theorem serveWrite_okay {a n : Nat} {t : Target} {s : State} (v : Word) (ha : a < 2048)
    (ht : target a n = some t) (h : s.busy = false ∨ writableWhileBusy t = true) :
    serveWrite a n v s = respond okayWrite (writeTarget t v s) := by
  have hd : (s.busy && !writableWhileBusy t) = false := by rcases h with h | h <;> simp [h]
  unfold serveWrite
  rw [if_pos (show a < Config.windowSize from ha), ht]
  simp only [hd, Bool.false_eq_true, if_false]

/-- While idle nothing is unspecified (70_reset_and_hazards.md R246). -/
theorem targetUnspecified_idle {s : State} (t : Target) (hb : s.busy = false) : targetUnspecified s t = false := by
  cases t <;> simp [targetUnspecified, regUnspecified, byteUnspecified, hb]

/-! ### The write sets by offset -/

/-- The write set by offset is the machine's by register. -/
theorem inWriteSet_reg (s : State) (i : Instr) {a : Nat} {r : Reg} (h : Reg.ofOffset a = some r) :
    Spec.inWriteSet s i a = writesReg i r := by
  unfold Reg.ofOffset at h
  split at h <;> cases h <;> cases i <;> rfl

/-- The write set by offset is the machine's by byte, in the buffers. -/
theorem inWriteSet_byte (s : State) (i : Instr) {a : Nat} (h : 0x080 ≤ a) :
    Spec.inWriteSet s i a = writesByte s i a := by
  have e1 : (a == 0x05C) = false := by simp; omega
  have e2 : (a == 0x070) = false := by simp; omega
  have e3 : decide (a ∈ Spec.rwFieldOffsets) = false := by simp [Spec.rwFieldOffsets]; omega
  cases i <;> simp only [Spec.inWriteSet, writesByte, e1, e2, e3, Bool.or_false] <;> first | rfl | skip
  rw [Bool.eq_iff_iff]
  simp [isPackedByte, textAddr, Config.maxFrameLen]
  omega

/-- What is unspecified while BUSY, by offset, is the machine's by register. -/
theorem unspecifiedAt_reg {s : State} (hb : s.busy = true) {a : Nat} {r : Reg} (h : Reg.ofOffset a = some r) :
    Spec.unspecifiedAt s a = regUnspecified s r := by
  have hr : (a == 0x018) = (r == .result) := by
    unfold Reg.ofOffset at h
    split at h <;> cases h <;> rfl
  unfold Spec.unspecifiedAt regUnspecified
  rw [hb, Bool.true_and, hr]
  cases decode s.pending with
  | ok i => simp only; rw [inWriteSet_reg s i h]
  | error e => rfl

/-- What is unspecified while BUSY, by offset, is the machine's by byte. -/
theorem unspecifiedAt_byte {s : State} (hb : s.busy = true) {a : Nat} (h : 0x080 ≤ a) :
    Spec.unspecifiedAt s a = byteUnspecified s a := by
  have e1 : (a == 0x018) = false := by simp; omega
  unfold Spec.unspecifiedAt byteUnspecified
  rw [hb, Bool.true_and, e1, Bool.false_or]
  cases decode s.pending with
  | ok i => simp only; rw [inWriteSet_byte s i h]
  | error e => rfl

/-- A byte without storage reads 0 (10_state.md R49, R50). -/
theorem loadByte_of_not_storage (s : State) {a : Nat} (h : isStorage a = false) : loadByte s a = 0 := by
  simp [loadByte, Memory.read?, h]

/-- The number of two concatenated bit vectors. -/
theorem append_toNat {n m : Nat} (x : BitVec n) (y : BitVec m) : (x ++ y).toNat = x.toNat * 2 ^ m + y.toNat := by
  rw [BitVec.toNat_append, ← Nat.shiftLeft_add_eq_or_of_lt y.isLt, Nat.shiftLeft_eq]

end Sys2Proof.Machine
end

