-- ==== Sys2Proof/Laws/Encoding.lean ====
section
/-! SUPPORT. The command words as numbers: what the encoder writes, and what the fields of a word are. -/

namespace Sys2Proof

theorem encode_validate_toNat (b : Byte) : (encode (.validate b)).toNat = 4 + b.toNat * 2 ^ 8 := by
  revert b; decide

theorem encode_ismark_toNat (c : Byte) : (encode (.ismark c)).toNat = 9 + c.toNat * 2 ^ 8 := by
  revert c; decide

theorem encode_b2h_toNat (b : Byte) : (encode (.b2h b)).toNat = 11 + b.toNat * 2 ^ 8 := by
  revert b; decide

theorem encode_h2b_toNat (hi lo : Byte) :
    (encode (.h2b hi lo)).toNat = 10 + hi.toNat * 2 ^ 8 + lo.toNat * 2 ^ 16 := by
  have low : (0x0000000A#32 ||| (hi.setWidth 32 <<< 8)).toNat = 10 + hi.toNat * 2 ^ 8 := by
    revert hi; decide
  have hhi := hi.isLt
  have hlo := lo.isLt
  have shifted : (lo.setWidth 32 <<< 16).toNat = lo.toNat <<< 16 := by
    simp only [BitVec.toNat_shiftLeft, BitVec.toNat_setWidth, Nat.shiftLeft_eq]
    omega
  rw [encode, BitVec.toNat_or, low, shifted, Nat.or_comm, ← Nat.shiftLeft_add_eq_or_of_lt (by omega),
    Nat.shiftLeft_eq]
  omega

theorem opcOf_toNat (w : Word) : (opcOf w).toNat = w.toNat % 2 ^ 8 := by
  simp [opcOf, BitVec.extractLsb'_toNat]

theorem arg0Of_toNat (w : Word) : (arg0Of w).toNat = w.toNat / 2 ^ 8 % 2 ^ 8 := by
  simp [arg0Of, BitVec.extractLsb'_toNat, Nat.shiftRight_eq_div_pow]

theorem arg1Of_toNat (w : Word) : (arg1Of w).toNat = w.toNat / 2 ^ 16 % 2 ^ 8 := by
  simp [arg1Of, BitVec.extractLsb'_toNat, Nat.shiftRight_eq_div_pow]

theorem rsvOf_toNat (w : Word) : (rsvOf w).toNat = w.toNat / 2 ^ 24 := by
  have := w.isLt
  simp only [rsvOf, BitVec.extractLsb'_toNat, Nat.shiftRight_eq_div_pow]
  omega

end Sys2Proof
end

