-- ==== Sys2Proof/Laws/State.lean ====
section
/-! SUPPORT. What each update of the state does to each field, one lemma per field, so that no proof unfolds a record
update. -/

namespace Sys2Proof.Machine

variable (s : State)

/-- A success is a completion with code 0. -/
@[simp] theorem succeed_eq (r : Half) : succeed r s = complete 0 r s := rfl

/-- An error is a completion with its code and the value 0. -/
@[simp] theorem raise_eq (e : ErrorCode) : raise e s = complete e.code 0 s := rfl

/-- A word write of a buffer is a write of its four bytes. -/
@[simp] theorem storeWord_eq (a : Nat) (v : Word) : storeWord a v s = storeBytes a (bytesOfWord v) s := rfl

/-- A write of PACKED[0..5] is a write of six bytes. -/
@[simp] theorem storePacked_eq (p : Packed) : storePacked p s = storeBytes (packedAddr 0) p.toList s := rfl

/-! ### complete -/

@[simp] theorem complete_ie (e : BitVec 4) (r : Half) : (complete e r s).ie = s.ie := rfl
@[simp] theorem complete_busy (e : BitVec 4) (r : Half) : (complete e r s).busy = false := rfl
@[simp] theorem complete_done (e : BitVec 4) (r : Half) : (complete e r s).done = true := rfl
@[simp] theorem complete_werr (e : BitVec 4) (r : Half) : (complete e r s).werr = s.werr := rfl
@[simp] theorem complete_err (e : BitVec 4) (r : Half) : (complete e r s).err = e := rfl
@[simp] theorem complete_cmd (e : BitVec 4) (r : Half) : (complete e r s).cmd = s.cmd := rfl
@[simp] theorem complete_result (e : BitVec 4) (r : Half) : (complete e r s).result = if e = 0 then r else 0 := rfl
@[simp] theorem complete_declLen (e : BitVec 4) (r : Half) : (complete e r s).declLen = s.declLen := rfl
@[simp] theorem complete_fields (e : BitVec 4) (r : Half) : (complete e r s).fields = s.fields := rfl
@[simp] theorem complete_checksum (e : BitVec 4) (r : Half) : (complete e r s).checksum = s.checksum := rfl
@[simp] theorem complete_mem (e : BitVec 4) (r : Half) : (complete e r s).mem = s.mem := rfl
@[simp] theorem complete_pending (e : BitVec 4) (r : Half) : (complete e r s).pending = s.pending := rfl
@[simp] theorem complete_inputs (e : BitVec 4) (r : Half) : (complete e r s).inputs = s.inputs := rfl
@[simp] theorem complete_response (e : BitVec 4) (r : Half) : (complete e r s).response = s.response := rfl
@[simp] theorem complete_wait (e : BitVec 4) (r : Half) : (complete e r s).wait = s.wait := rfl
@[simp] theorem complete_draws (e : BitVec 4) (r : Half) : (complete e r s).draws = s.draws := rfl
@[simp] theorem complete_epoch (e : BitVec 4) (r : Half) : (complete e r s).epoch = s.epoch := rfl

/-! ### storeByte -/

@[simp] theorem storeByte_ie (a : Nat) (b : Byte) : (storeByte a b s).ie = s.ie := rfl
@[simp] theorem storeByte_busy (a : Nat) (b : Byte) : (storeByte a b s).busy = s.busy := rfl
@[simp] theorem storeByte_done (a : Nat) (b : Byte) : (storeByte a b s).done = s.done := rfl
@[simp] theorem storeByte_werr (a : Nat) (b : Byte) : (storeByte a b s).werr = s.werr := rfl
@[simp] theorem storeByte_err (a : Nat) (b : Byte) : (storeByte a b s).err = s.err := rfl
@[simp] theorem storeByte_cmd (a : Nat) (b : Byte) : (storeByte a b s).cmd = s.cmd := rfl
@[simp] theorem storeByte_result (a : Nat) (b : Byte) : (storeByte a b s).result = s.result := rfl
@[simp] theorem storeByte_declLen (a : Nat) (b : Byte) : (storeByte a b s).declLen = s.declLen := rfl
@[simp] theorem storeByte_fields (a : Nat) (b : Byte) : (storeByte a b s).fields = s.fields := rfl
@[simp] theorem storeByte_checksum (a : Nat) (b : Byte) : (storeByte a b s).checksum = s.checksum := rfl
@[simp] theorem storeByte_mem (a : Nat) (b : Byte) : (storeByte a b s).mem = Memory.write s.mem a b := rfl
@[simp] theorem storeByte_pending (a : Nat) (b : Byte) : (storeByte a b s).pending = s.pending := rfl
@[simp] theorem storeByte_inputs (a : Nat) (b : Byte) : (storeByte a b s).inputs = s.inputs := rfl
@[simp] theorem storeByte_response (a : Nat) (b : Byte) : (storeByte a b s).response = s.response := rfl
@[simp] theorem storeByte_wait (a : Nat) (b : Byte) : (storeByte a b s).wait = s.wait := rfl
@[simp] theorem storeByte_draws (a : Nat) (b : Byte) : (storeByte a b s).draws = s.draws := rfl
@[simp] theorem storeByte_epoch (a : Nat) (b : Byte) : (storeByte a b s).epoch = s.epoch := rfl

/-! ### storeBytes -/

@[simp] theorem storeBytes_ie (a : Nat) (bs : List Byte) : (storeBytes a bs s).ie = s.ie := rfl
@[simp] theorem storeBytes_busy (a : Nat) (bs : List Byte) : (storeBytes a bs s).busy = s.busy := rfl
@[simp] theorem storeBytes_done (a : Nat) (bs : List Byte) : (storeBytes a bs s).done = s.done := rfl
@[simp] theorem storeBytes_werr (a : Nat) (bs : List Byte) : (storeBytes a bs s).werr = s.werr := rfl
@[simp] theorem storeBytes_err (a : Nat) (bs : List Byte) : (storeBytes a bs s).err = s.err := rfl
@[simp] theorem storeBytes_cmd (a : Nat) (bs : List Byte) : (storeBytes a bs s).cmd = s.cmd := rfl
@[simp] theorem storeBytes_result (a : Nat) (bs : List Byte) : (storeBytes a bs s).result = s.result := rfl
@[simp] theorem storeBytes_declLen (a : Nat) (bs : List Byte) : (storeBytes a bs s).declLen = s.declLen := rfl
@[simp] theorem storeBytes_fields (a : Nat) (bs : List Byte) : (storeBytes a bs s).fields = s.fields := rfl
@[simp] theorem storeBytes_checksum (a : Nat) (bs : List Byte) : (storeBytes a bs s).checksum = s.checksum := rfl
@[simp] theorem storeBytes_mem (a : Nat) (bs : List Byte) :
    (storeBytes a bs s).mem =
      Memory.writeBytes s.mem a bs := rfl
@[simp] theorem storeBytes_pending (a : Nat) (bs : List Byte) : (storeBytes a bs s).pending = s.pending := rfl
@[simp] theorem storeBytes_inputs (a : Nat) (bs : List Byte) : (storeBytes a bs s).inputs = s.inputs := rfl
@[simp] theorem storeBytes_response (a : Nat) (bs : List Byte) : (storeBytes a bs s).response = s.response := rfl
@[simp] theorem storeBytes_wait (a : Nat) (bs : List Byte) : (storeBytes a bs s).wait = s.wait := rfl
@[simp] theorem storeBytes_draws (a : Nat) (bs : List Byte) : (storeBytes a bs s).draws = s.draws := rfl
@[simp] theorem storeBytes_epoch (a : Nat) (bs : List Byte) : (storeBytes a bs s).epoch = s.epoch := rfl

/-! ### clearMessage -/

@[simp] theorem clearMessage_ie : (clearMessage s).ie = s.ie := rfl
@[simp] theorem clearMessage_busy : (clearMessage s).busy = s.busy := rfl
@[simp] theorem clearMessage_done : (clearMessage s).done = s.done := rfl
@[simp] theorem clearMessage_werr : (clearMessage s).werr = s.werr := rfl
@[simp] theorem clearMessage_err : (clearMessage s).err = s.err := rfl
@[simp] theorem clearMessage_cmd : (clearMessage s).cmd = s.cmd := rfl
@[simp] theorem clearMessage_result : (clearMessage s).result = s.result := rfl
@[simp] theorem clearMessage_declLen : (clearMessage s).declLen = s.declLen := rfl
@[simp] theorem clearMessage_fields : (clearMessage s).fields = Fields.zero := rfl
@[simp] theorem clearMessage_checksum : (clearMessage s).checksum = 0 := rfl
@[simp] theorem clearMessage_mem : (clearMessage s).mem = Memory.clearMessage s.mem := by rw [clearMessage]
@[simp] theorem clearMessage_pending : (clearMessage s).pending = s.pending := rfl
@[simp] theorem clearMessage_inputs : (clearMessage s).inputs = s.inputs := rfl
@[simp] theorem clearMessage_response : (clearMessage s).response = s.response := rfl
@[simp] theorem clearMessage_wait : (clearMessage s).wait = s.wait := rfl
@[simp] theorem clearMessage_draws : (clearMessage s).draws = s.draws := rfl
@[simp] theorem clearMessage_epoch : (clearMessage s).epoch = s.epoch := rfl

/-! ### acceptCommand -/

@[simp] theorem acceptCommand_ie (w : Word) : (acceptCommand w s).ie = s.ie := rfl
@[simp] theorem acceptCommand_busy (w : Word) : (acceptCommand w s).busy = true := rfl
@[simp] theorem acceptCommand_done (w : Word) : (acceptCommand w s).done = false := rfl
@[simp] theorem acceptCommand_werr (w : Word) : (acceptCommand w s).werr = s.werr := rfl
@[simp] theorem acceptCommand_err (w : Word) : (acceptCommand w s).err = s.err := rfl
@[simp] theorem acceptCommand_cmd (w : Word) : (acceptCommand w s).cmd = w := rfl
@[simp] theorem acceptCommand_result (w : Word) : (acceptCommand w s).result = s.result := rfl
@[simp] theorem acceptCommand_declLen (w : Word) : (acceptCommand w s).declLen = s.declLen := rfl
@[simp] theorem acceptCommand_fields (w : Word) : (acceptCommand w s).fields = s.fields := rfl
@[simp] theorem acceptCommand_checksum (w : Word) : (acceptCommand w s).checksum = s.checksum := rfl
@[simp] theorem acceptCommand_mem (w : Word) : (acceptCommand w s).mem = s.mem := rfl
@[simp] theorem acceptCommand_pending (w : Word) : (acceptCommand w s).pending = w := rfl
@[simp] theorem acceptCommand_inputs (w : Word) : (acceptCommand w s).inputs = s.inputs := rfl
@[simp] theorem acceptCommand_response (w : Word) : (acceptCommand w s).response = s.response := rfl
@[simp] theorem acceptCommand_wait (w : Word) :
    (acceptCommand w s).wait =
      Config.transactionsBeforePerform s.draws := rfl
@[simp] theorem acceptCommand_draws (w : Word) : (acceptCommand w s).draws = s.draws + 1 := rfl
@[simp] theorem acceptCommand_epoch (w : Word) : (acceptCommand w s).epoch = s.epoch := rfl

/-! ### placeCommand -/

@[simp] theorem placeCommand_ie (w : Word) : (placeCommand w s).ie = s.ie := rfl
@[simp] theorem placeCommand_busy (w : Word) : (placeCommand w s).busy = true := rfl
@[simp] theorem placeCommand_done (w : Word) : (placeCommand w s).done = false := rfl
@[simp] theorem placeCommand_werr (w : Word) : (placeCommand w s).werr = s.werr := rfl
@[simp] theorem placeCommand_err (w : Word) : (placeCommand w s).err = s.err := rfl
@[simp] theorem placeCommand_cmd (w : Word) : (placeCommand w s).cmd = w := rfl
@[simp] theorem placeCommand_result (w : Word) : (placeCommand w s).result = s.result := rfl
@[simp] theorem placeCommand_declLen (w : Word) : (placeCommand w s).declLen = s.declLen := rfl
@[simp] theorem placeCommand_fields (w : Word) : (placeCommand w s).fields = s.fields := rfl
@[simp] theorem placeCommand_checksum (w : Word) : (placeCommand w s).checksum = s.checksum := rfl
@[simp] theorem placeCommand_mem (w : Word) : (placeCommand w s).mem = s.mem := rfl
@[simp] theorem placeCommand_pending (w : Word) : (placeCommand w s).pending = w := rfl
@[simp] theorem placeCommand_inputs (w : Word) : (placeCommand w s).inputs = s.inputs := rfl
@[simp] theorem placeCommand_response (w : Word) : (placeCommand w s).response = s.response := rfl
@[simp] theorem placeCommand_wait (w : Word) : (placeCommand w s).wait = 0 := rfl
@[simp] theorem placeCommand_draws (w : Word) : (placeCommand w s).draws = s.draws := rfl
@[simp] theorem placeCommand_epoch (w : Word) : (placeCommand w s).epoch = s.epoch := rfl

/-! ### writeCtrl -/

@[simp] theorem writeCtrl_ie (v : Word) : (writeCtrl v s).ie = v.getLsbD 0 := rfl
@[simp] theorem writeCtrl_busy (v : Word) : (writeCtrl v s).busy = s.busy := rfl
@[simp] theorem writeCtrl_done (v : Word) : (writeCtrl v s).done = s.done := rfl
@[simp] theorem writeCtrl_werr (v : Word) : (writeCtrl v s).werr = s.werr := rfl
@[simp] theorem writeCtrl_err (v : Word) : (writeCtrl v s).err = s.err := rfl
@[simp] theorem writeCtrl_cmd (v : Word) : (writeCtrl v s).cmd = s.cmd := rfl
@[simp] theorem writeCtrl_result (v : Word) : (writeCtrl v s).result = s.result := rfl
@[simp] theorem writeCtrl_declLen (v : Word) : (writeCtrl v s).declLen = s.declLen := rfl
@[simp] theorem writeCtrl_fields (v : Word) : (writeCtrl v s).fields = s.fields := rfl
@[simp] theorem writeCtrl_checksum (v : Word) : (writeCtrl v s).checksum = s.checksum := rfl
@[simp] theorem writeCtrl_mem (v : Word) : (writeCtrl v s).mem = s.mem := rfl
@[simp] theorem writeCtrl_pending (v : Word) : (writeCtrl v s).pending = s.pending := rfl
@[simp] theorem writeCtrl_inputs (v : Word) : (writeCtrl v s).inputs = s.inputs := rfl
@[simp] theorem writeCtrl_response (v : Word) : (writeCtrl v s).response = s.response := rfl
@[simp] theorem writeCtrl_wait (v : Word) : (writeCtrl v s).wait = s.wait := rfl
@[simp] theorem writeCtrl_draws (v : Word) : (writeCtrl v s).draws = s.draws := rfl
@[simp] theorem writeCtrl_epoch (v : Word) : (writeCtrl v s).epoch = s.epoch := rfl

/-! ### writeStatus -/

@[simp] theorem writeStatus_ie (v : Word) : (writeStatus v s).ie = s.ie := rfl
@[simp] theorem writeStatus_busy (v : Word) : (writeStatus v s).busy = s.busy := rfl
@[simp] theorem writeStatus_done (v : Word) : (writeStatus v s).done = (s.done && !v.getLsbD 1) := rfl
@[simp] theorem writeStatus_werr (v : Word) : (writeStatus v s).werr = (s.werr && !v.getLsbD 2) := rfl
@[simp] theorem writeStatus_err (v : Word) : (writeStatus v s).err = s.err := rfl
@[simp] theorem writeStatus_cmd (v : Word) : (writeStatus v s).cmd = s.cmd := rfl
@[simp] theorem writeStatus_result (v : Word) : (writeStatus v s).result = s.result := rfl
@[simp] theorem writeStatus_declLen (v : Word) : (writeStatus v s).declLen = s.declLen := rfl
@[simp] theorem writeStatus_fields (v : Word) : (writeStatus v s).fields = s.fields := rfl
@[simp] theorem writeStatus_checksum (v : Word) : (writeStatus v s).checksum = s.checksum := rfl
@[simp] theorem writeStatus_mem (v : Word) : (writeStatus v s).mem = s.mem := rfl
@[simp] theorem writeStatus_pending (v : Word) : (writeStatus v s).pending = s.pending := rfl
@[simp] theorem writeStatus_inputs (v : Word) : (writeStatus v s).inputs = s.inputs := rfl
@[simp] theorem writeStatus_response (v : Word) : (writeStatus v s).response = s.response := rfl
@[simp] theorem writeStatus_wait (v : Word) : (writeStatus v s).wait = s.wait := rfl
@[simp] theorem writeStatus_draws (v : Word) : (writeStatus v s).draws = s.draws := rfl
@[simp] theorem writeStatus_epoch (v : Word) : (writeStatus v s).epoch = s.epoch := rfl

/-! ### dropWrite -/

@[simp] theorem dropWrite_ie : (dropWrite s).ie = s.ie := rfl
@[simp] theorem dropWrite_busy : (dropWrite s).busy = s.busy := rfl
@[simp] theorem dropWrite_done : (dropWrite s).done = s.done := rfl
@[simp] theorem dropWrite_werr : (dropWrite s).werr = true := rfl
@[simp] theorem dropWrite_err : (dropWrite s).err = s.err := rfl
@[simp] theorem dropWrite_cmd : (dropWrite s).cmd = s.cmd := rfl
@[simp] theorem dropWrite_result : (dropWrite s).result = s.result := rfl
@[simp] theorem dropWrite_declLen : (dropWrite s).declLen = s.declLen := rfl
@[simp] theorem dropWrite_fields : (dropWrite s).fields = s.fields := rfl
@[simp] theorem dropWrite_checksum : (dropWrite s).checksum = s.checksum := rfl
@[simp] theorem dropWrite_mem : (dropWrite s).mem = s.mem := rfl
@[simp] theorem dropWrite_pending : (dropWrite s).pending = s.pending := rfl
@[simp] theorem dropWrite_inputs : (dropWrite s).inputs = s.inputs := rfl
@[simp] theorem dropWrite_response : (dropWrite s).response = s.response := rfl
@[simp] theorem dropWrite_wait : (dropWrite s).wait = s.wait := rfl
@[simp] theorem dropWrite_draws : (dropWrite s).draws = s.draws := rfl
@[simp] theorem dropWrite_epoch : (dropWrite s).epoch = s.epoch := rfl

/-! ### respond -/

@[simp] theorem respond_ie (r : BusResponse) : (respond r s).ie = s.ie := rfl
@[simp] theorem respond_busy (r : BusResponse) : (respond r s).busy = s.busy := rfl
@[simp] theorem respond_done (r : BusResponse) : (respond r s).done = s.done := rfl
@[simp] theorem respond_werr (r : BusResponse) : (respond r s).werr = s.werr := rfl
@[simp] theorem respond_err (r : BusResponse) : (respond r s).err = s.err := rfl
@[simp] theorem respond_cmd (r : BusResponse) : (respond r s).cmd = s.cmd := rfl
@[simp] theorem respond_result (r : BusResponse) : (respond r s).result = s.result := rfl
@[simp] theorem respond_declLen (r : BusResponse) : (respond r s).declLen = s.declLen := rfl
@[simp] theorem respond_fields (r : BusResponse) : (respond r s).fields = s.fields := rfl
@[simp] theorem respond_checksum (r : BusResponse) : (respond r s).checksum = s.checksum := rfl
@[simp] theorem respond_mem (r : BusResponse) : (respond r s).mem = s.mem := rfl
@[simp] theorem respond_pending (r : BusResponse) : (respond r s).pending = s.pending := rfl
@[simp] theorem respond_inputs (r : BusResponse) : (respond r s).inputs = s.inputs := rfl
@[simp] theorem respond_response (r : BusResponse) : (respond r s).response = some r := rfl
@[simp] theorem respond_wait (r : BusResponse) : (respond r s).wait = s.wait := rfl
@[simp] theorem respond_draws (r : BusResponse) : (respond r s).draws = s.draws := rfl
@[simp] theorem respond_epoch (r : BusResponse) : (respond r s).epoch = s.epoch := rfl

/-! ### notSelected -/

@[simp] theorem notSelected_ie : (notSelected s).ie = s.ie := rfl
@[simp] theorem notSelected_busy : (notSelected s).busy = s.busy := rfl
@[simp] theorem notSelected_done : (notSelected s).done = s.done := rfl
@[simp] theorem notSelected_werr : (notSelected s).werr = s.werr := rfl
@[simp] theorem notSelected_err : (notSelected s).err = s.err := rfl
@[simp] theorem notSelected_cmd : (notSelected s).cmd = s.cmd := rfl
@[simp] theorem notSelected_result : (notSelected s).result = s.result := rfl
@[simp] theorem notSelected_declLen : (notSelected s).declLen = s.declLen := rfl
@[simp] theorem notSelected_fields : (notSelected s).fields = s.fields := rfl
@[simp] theorem notSelected_checksum : (notSelected s).checksum = s.checksum := rfl
@[simp] theorem notSelected_mem : (notSelected s).mem = s.mem := rfl
@[simp] theorem notSelected_pending : (notSelected s).pending = s.pending := rfl
@[simp] theorem notSelected_inputs : (notSelected s).inputs = s.inputs := rfl
@[simp] theorem notSelected_response : (notSelected s).response = none := rfl
@[simp] theorem notSelected_wait : (notSelected s).wait = s.wait := rfl
@[simp] theorem notSelected_draws : (notSelected s).draws = s.draws := rfl
@[simp] theorem notSelected_epoch : (notSelected s).epoch = s.epoch := rfl

/-! ### writeFrame -/

@[simp] theorem writeFrame_ie (p : Packed) (q : List Byte) (c : Byte) : (writeFrame p q c s).ie = s.ie := rfl
@[simp] theorem writeFrame_busy (p : Packed) (q : List Byte) (c : Byte) : (writeFrame p q c s).busy = s.busy := rfl
@[simp] theorem writeFrame_done (p : Packed) (q : List Byte) (c : Byte) : (writeFrame p q c s).done = s.done := rfl
@[simp] theorem writeFrame_werr (p : Packed) (q : List Byte) (c : Byte) : (writeFrame p q c s).werr = s.werr := rfl
@[simp] theorem writeFrame_err (p : Packed) (q : List Byte) (c : Byte) : (writeFrame p q c s).err = s.err := rfl
@[simp] theorem writeFrame_cmd (p : Packed) (q : List Byte) (c : Byte) : (writeFrame p q c s).cmd = s.cmd := rfl
@[simp] theorem writeFrame_result (p : Packed) (q : List Byte) (c : Byte) :
    (writeFrame p q c s).result =
      s.result := rfl
@[simp] theorem writeFrame_declLen (p : Packed) (q : List Byte) (c : Byte) :
    (writeFrame p q c s).declLen =
      s.declLen := rfl
@[simp] theorem writeFrame_fields (p : Packed) (q : List Byte) (c : Byte) :
    (writeFrame p q c s).fields =
      s.fields := rfl
@[simp] theorem writeFrame_checksum (p : Packed) (q : List Byte) (c : Byte) : (writeFrame p q c s).checksum = c := rfl
@[simp] theorem writeFrame_mem (p : Packed) (q : List Byte) (c : Byte) :
    (writeFrame p q c s).mem =
      Memory.writeBytes (Memory.writeBytes s.mem (textAddr 0) (frameText p q c)) (packedAddr 0) p.toList := rfl
@[simp] theorem writeFrame_pending (p : Packed) (q : List Byte) (c : Byte) :
    (writeFrame p q c s).pending =
      s.pending := rfl
@[simp] theorem writeFrame_inputs (p : Packed) (q : List Byte) (c : Byte) :
    (writeFrame p q c s).inputs =
      s.inputs := rfl
@[simp] theorem writeFrame_response (p : Packed) (q : List Byte) (c : Byte) :
    (writeFrame p q c s).response =
      s.response := rfl
@[simp] theorem writeFrame_wait (p : Packed) (q : List Byte) (c : Byte) : (writeFrame p q c s).wait = s.wait := rfl
@[simp] theorem writeFrame_draws (p : Packed) (q : List Byte) (c : Byte) : (writeFrame p q c s).draws = s.draws := rfl
@[simp] theorem writeFrame_epoch (p : Packed) (q : List Byte) (c : Byte) : (writeFrame p q c s).epoch = s.epoch := rfl

/-! ### writeMessage -/

@[simp] theorem writeMessage_ie (f : Frame) : (writeMessage f s).ie = s.ie := rfl
@[simp] theorem writeMessage_busy (f : Frame) : (writeMessage f s).busy = s.busy := rfl
@[simp] theorem writeMessage_done (f : Frame) : (writeMessage f s).done = s.done := rfl
@[simp] theorem writeMessage_werr (f : Frame) : (writeMessage f s).werr = s.werr := rfl
@[simp] theorem writeMessage_err (f : Frame) : (writeMessage f s).err = s.err := rfl
@[simp] theorem writeMessage_cmd (f : Frame) : (writeMessage f s).cmd = s.cmd := rfl
@[simp] theorem writeMessage_result (f : Frame) : (writeMessage f s).result = s.result := rfl
@[simp] theorem writeMessage_declLen (f : Frame) : (writeMessage f s).declLen = s.declLen := rfl
@[simp] theorem writeMessage_fields (f : Frame) : (writeMessage f s).fields = unpackBytes f.packed := rfl
@[simp] theorem writeMessage_checksum (f : Frame) : (writeMessage f s).checksum = f.checksum := rfl
@[simp] theorem writeMessage_mem (f : Frame) :
    (writeMessage f s).mem =
      Memory.writeBytes (Memory.writeBytes s.mem (packedAddr 0) f.packed.toList) (payloadAddr 0) f.payload := rfl
@[simp] theorem writeMessage_pending (f : Frame) : (writeMessage f s).pending = s.pending := rfl
@[simp] theorem writeMessage_inputs (f : Frame) : (writeMessage f s).inputs = s.inputs := rfl
@[simp] theorem writeMessage_response (f : Frame) : (writeMessage f s).response = s.response := rfl
@[simp] theorem writeMessage_wait (f : Frame) : (writeMessage f s).wait = s.wait := rfl
@[simp] theorem writeMessage_draws (f : Frame) : (writeMessage f s).draws = s.draws := rfl
@[simp] theorem writeMessage_epoch (f : Frame) : (writeMessage f s).epoch = s.epoch := rfl

/-! ### resetBlock -/

@[simp] theorem resetBlock_ie : (resetBlock s).ie = State.reset.ie := rfl
@[simp] theorem resetBlock_busy : (resetBlock s).busy = State.reset.busy := rfl
@[simp] theorem resetBlock_done : (resetBlock s).done = State.reset.done := rfl
@[simp] theorem resetBlock_werr : (resetBlock s).werr = State.reset.werr := rfl
@[simp] theorem resetBlock_err : (resetBlock s).err = State.reset.err := rfl
@[simp] theorem resetBlock_cmd : (resetBlock s).cmd = State.reset.cmd := rfl
@[simp] theorem resetBlock_result : (resetBlock s).result = State.reset.result := rfl
@[simp] theorem resetBlock_declLen : (resetBlock s).declLen = State.reset.declLen := rfl
@[simp] theorem resetBlock_fields : (resetBlock s).fields = State.reset.fields := rfl
@[simp] theorem resetBlock_checksum : (resetBlock s).checksum = State.reset.checksum := rfl
@[simp] theorem resetBlock_mem : (resetBlock s).mem = State.reset.mem := rfl
@[simp] theorem resetBlock_pending : (resetBlock s).pending = State.reset.pending := rfl
@[simp] theorem resetBlock_inputs : (resetBlock s).inputs = s.inputs := rfl
@[simp] theorem resetBlock_response : (resetBlock s).response = State.reset.response := rfl
@[simp] theorem resetBlock_wait : (resetBlock s).wait = State.reset.wait := rfl
@[simp] theorem resetBlock_draws : (resetBlock s).draws = s.draws := rfl
@[simp] theorem resetBlock_epoch : (resetBlock s).epoch = s.epoch + 1 := rfl

end Sys2Proof.Machine
end

