-- ==== Sys2Proof/Laws/Memory.lean ====
section
/-! SUPPORT. The laws of the buffers as memory: a read after a write, the canonical form, and what a write of several
bytes leaves at each offset. -/

namespace Sys2Proof.Machine

@[simp] theorem Memory.find_insert_self (m : Memory) (x : Nat) (b : Byte) : (m.insert x b).find x = some b := by
  induction m with
  | nil => simp [Memory.insert, Memory.find]
  | cons c m ih =>
    obtain ⟨a, d⟩ := c
    simp only [Memory.insert]
    split
    · simp [Memory.find]
    · split
      · simp [Memory.find]
      · simp [Memory.find, *]

theorem Memory.find_insert_of_ne (m : Memory) {x y : Nat} (b : Byte) (h : y ≠ x) :
    (m.insert x b).find y = m.find y := by
  induction m with
  | nil => simp [Memory.insert, Memory.find, Ne.symm h]
  | cons c m ih =>
    obtain ⟨a, d⟩ := c
    simp only [Memory.insert]
    split
    · simp [Memory.find, Ne.symm h]
    · split
      · rename_i ha
        subst ha
        simp [Memory.find, Ne.symm h]
      · simp [Memory.find, ih]

@[simp] theorem Memory.find_erase_self (m : Memory) (x : Nat) : (m.erase x).find x = none := by
  induction m with
  | nil => rfl
  | cons c m ih =>
    obtain ⟨a, d⟩ := c
    simp only [Memory.erase]
    split
    · exact ih
    · simp [Memory.find, *]

theorem Memory.find_erase_of_ne (m : Memory) {x y : Nat} (h : y ≠ x) : (m.erase x).find y = m.find y := by
  induction m with
  | nil => rfl
  | cons c m ih =>
    obtain ⟨a, d⟩ := c
    simp only [Memory.erase]
    split
    · rename_i ha
      subst ha
      simp [Memory.find, ih, Ne.symm h]
    · simp [Memory.find, ih]

/-- A read after a write to the same offset gives the byte written. -/
theorem Memory.read?_write_self (m : Memory) {a : Nat} (b : Byte) (h : isStorage a = true) :
    (m.write a b).read? a = some b := by
  unfold Memory.read? Memory.write
  simp only [h, if_true]
  split_ifs with hu
  · simp [hu]
  · simp

/-- A write leaves every other offset alone. -/
theorem Memory.read?_write_of_ne (m : Memory) {a x : Nat} (b : Byte) (h : x ≠ a) :
    (m.write a b).read? x = m.read? x := by
  unfold Memory.read? Memory.write
  split_ifs <;> simp [Memory.find_erase_of_ne, Memory.find_insert_of_ne, h]

/-- A write to an offset without storage is ignored (10_state.md R49, R50). -/
theorem Memory.write_of_not_storage (m : Memory) {a : Nat} (b : Byte) (h : isStorage a = false) :
    m.write a b = m := by
  simp [Memory.write, h]

/-- What a write of several bytes leaves at each offset. -/
theorem Memory.read?_writeBytes (m : Memory) (a : Nat) (bs : List Byte) (x : Nat) :
    (m.writeBytes a bs).read? x =
      if isStorage x = true ∧ a ≤ x ∧ x < a + bs.length then bs[x - a]? else m.read? x := by
  induction bs generalizing a with
  | nil =>
    simp only [Memory.writeBytes, List.length_nil]
    rw [if_neg (by omega)]
  | cons b bs ih =>
    simp only [Memory.writeBytes, List.length_cons]
    by_cases hx : x = a
    · subst hx
      by_cases hs : isStorage x = true
      · rw [Memory.read?_write_self _ _ hs, if_pos ⟨hs, le_refl _, by omega⟩]
        simp
      · simp only [Bool.not_eq_true] at hs
        rw [Memory.write_of_not_storage _ _ hs, ih]
        simp [hs]
    · rw [Memory.read?_write_of_ne _ _ hx, ih]
      by_cases h : isStorage x = true ∧ a + 1 ≤ x ∧ x < a + 1 + bs.length
      · rw [if_pos h, if_pos ⟨h.1, by omega, by omega⟩]
        obtain ⟨k, rfl⟩ : ∃ k, x = a + 1 + k := ⟨x - (a + 1), by omega⟩
        rw [show a + 1 + k - (a + 1) = k by omega, show a + 1 + k - a = k + 1 by omega]
        simp
      · rw [if_neg h, if_neg]
        rintro ⟨h1, h2, h3⟩
        exact h ⟨h1, by omega, by omega⟩

theorem Memory.all_insert (m : Memory) (p : Host.Cell → Bool) (x : Nat) (b : Byte) (hx : p (x, b) = true)
    (h : m.all p = true) : (m.insert x b).all p = true := by
  induction m with
  | nil => simp [Memory.insert, hx]
  | cons c m ih =>
    obtain ⟨a, d⟩ := c
    simp only [List.all_cons, Bool.and_eq_true] at h
    simp only [Memory.insert]
    split_ifs <;> simp_all

theorem Memory.all_erase (m : Memory) (p : Host.Cell → Bool) (x : Nat) (h : m.all p = true) :
    (m.erase x).all p = true := by
  induction m with
  | nil => rfl
  | cons c m ih =>
    obtain ⟨a, d⟩ := c
    simp only [List.all_cons, Bool.and_eq_true] at h
    simp only [Memory.erase]
    split_ifs <;> simp_all

theorem Memory.wf_erase (m : Memory) (x : Nat) (h : m.wf = true) : (m.erase x).wf = true := by
  induction m with
  | nil => rfl
  | cons c m ih =>
    obtain ⟨a, d⟩ := c
    simp only [Memory.wf, Bool.and_eq_true] at h
    obtain ⟨⟨⟨h1, h2⟩, h3⟩, h4⟩ := h
    simp only [Memory.erase]
    split_ifs
    · exact ih h4
    · simp only [Memory.wf, Bool.and_eq_true]
      exact ⟨⟨⟨h1, h2⟩, Memory.all_erase _ _ _ h3⟩, ih h4⟩

theorem Memory.wf_insert (m : Memory) (x : Nat) (b : Byte) (hs : isStorage x = true)
    (hb : Memory.unlisted x ≠ some b) (h : m.wf = true) : (m.insert x b).wf = true := by
  induction m with
  | nil => simp [Memory.insert, Memory.wf, hs, hb]
  | cons c m ih =>
    obtain ⟨a, d⟩ := c
    have hw := h
    simp only [Memory.wf, Bool.and_eq_true] at h
    obtain ⟨⟨⟨h1, h2⟩, h3⟩, h4⟩ := h
    simp only [Memory.insert]
    split_ifs with hlt heq
    · rw [Memory.wf]
      simp only [hs, hw, Bool.and_eq_true, decide_eq_true_eq, List.all_cons, and_true, true_and]
      refine ⟨hb, hlt, ?_⟩
      rw [List.all_eq_true] at h3 ⊢
      intro c hc
      have := h3 c hc
      simp only [decide_eq_true_eq] at this ⊢
      omega
    · subst heq
      simp only [Memory.wf, Bool.and_eq_true, decide_eq_true_eq]
      exact ⟨⟨⟨hs, hb⟩, h3⟩, h4⟩
    · simp only [Memory.wf, Bool.and_eq_true]
      exact ⟨⟨⟨h1, h2⟩, Memory.all_insert _ _ _ _ (by simp; omega) h3⟩, ih h4⟩

/-- A write keeps the canonical form. -/
theorem Memory.wf_write (m : Memory) (a : Nat) (b : Byte) (h : m.wf = true) : (m.write a b).wf = true := by
  unfold Memory.write
  split_ifs with hs hu
  · exact Memory.wf_erase m a h
  · exact Memory.wf_insert m a b hs hu h
  · exact h

/-- A write of several bytes keeps the canonical form. -/
theorem Memory.wf_writeBytes (m : Memory) (a : Nat) (bs : List Byte) (h : m.wf = true) :
    (m.writeBytes a bs).wf = true := by
  induction bs generalizing a with
  | nil => exact h
  | cons b bs ih => exact Memory.wf_write _ _ _ (ih (a + 1))

/-! ### One byte of the state's buffers -/

/-- A byte depends on the memory and the reset count alone. -/
theorem loadByte_congr {s t : State} (hm : t.mem = s.mem) (he : t.epoch = s.epoch) (a : Nat) :
    loadByte t a = loadByte s a := by
  simp [loadByte, hm, he]

/-- A byte that the two memories agree on reads the same. -/
theorem loadByte_eq_of_read? {s t : State} {a : Nat} (hm : t.mem.read? a = s.mem.read? a) (he : t.epoch = s.epoch) :
    loadByte t a = loadByte s a := by
  simp [loadByte, hm, he]

@[simp] theorem loadByte_complete (e : BitVec 4) (r : Half) (s : State) (a : Nat) :
    loadByte (complete e r s) a = loadByte s a := rfl

/-- What a byte reads after a write of several bytes. -/
theorem loadByte_storeBytes (s : State) (a : Nat) (bs : List Byte) (x : Nat) :
    loadByte (storeBytes a bs s) x =
      if isStorage x = true ∧ a ≤ x ∧ x < a + bs.length then bs.getD (x - a) 0 else loadByte s x := by
  unfold loadByte
  simp only [storeBytes_mem, storeBytes_epoch, Memory.read?_writeBytes]
  split_ifs with h
  · rw [List.getElem?_eq_getElem (by omega), List.getD_eq_getElem _ _ (by omega)]
  · rfl

/-- The storage of the buffers, as ranges of offsets (10_state.md R49 to R51). -/
theorem isStorage_iff (a : Nat) :
    isStorage a = true ↔ (0x080 ≤ a ∧ a < 0x086) ∨ (0x100 ≤ a ∧ a < 0x1FF) ∨ (0x400 ≤ a ∧ a < 0x610) := by
  simp [isStorage, isPackedByte, isPayloadByte, isTextByte, or_assoc]

@[simp] theorem isPackedByte_iff (a : Nat) : isPackedByte a = true ↔ 0x080 ≤ a ∧ a < 0x086 := by
  simp [isPackedByte]

@[simp] theorem isPayloadByte_iff (a : Nat) : isPayloadByte a = true ↔ 0x100 ≤ a ∧ a < 0x1FF := by
  simp [isPayloadByte]

@[simp] theorem isTextByte_iff (a : Nat) : isTextByte a = true ↔ 0x400 ≤ a ∧ a < 0x610 := by
  simp [isTextByte]

/-- A read after a write to the same byte gives the byte written. -/
theorem loadByte_storeByte_self (s : State) {a : Nat} (b : Byte) (h : isStorage a = true) :
    loadByte (storeByte a b s) a = b := by
  simp [loadByte, Memory.read?_write_self _ _ h]

/-- A write to one byte leaves every other byte alone. -/
theorem loadByte_storeByte_of_ne (s : State) {a x : Nat} (b : Byte) (h : x ≠ a) :
    loadByte (storeByte a b s) x = loadByte s x := by
  simp [loadByte, Memory.read?_write_of_ne _ _ h]

@[simp] theorem loadBytes_length (s : State) (a n : Nat) : (loadBytes s a n).length = n := by
  induction n generalizing a with
  | zero => rfl
  | succ n ih => simp [loadBytes, ih]

@[simp] theorem loadBytes_getElem (s : State) (a n k : Nat) (h : k < (loadBytes s a n).length) :
    (loadBytes s a n)[k] = loadByte s (a + k) := by
  induction n generalizing a k with
  | zero => simp [loadBytes] at h
  | succ n ih =>
    cases k with
    | zero => rfl
    | succ k =>
      simp only [loadBytes, List.getElem_cons_succ]
      rw [ih, Nat.add_right_comm, Nat.add_assoc]

end Sys2Proof.Machine
end

