-- ==== Sys2Proof/Laws/Ops.lean ====
section
/-! SUPPORT. One lemma for each shared operation: all that it can do. -/

namespace Sys2Proof.Machine

@[simp] theorem zeroBytes_length (n : Nat) : (zeroBytes n).length = n := by
  induction n with
  | zero => rfl
  | succ n ih => simp [zeroBytes, ih]

theorem zeroBytes_getD (n k : Nat) : (zeroBytes n).getD k 0 = 0 := by
  induction n generalizing k with
  | zero => rfl
  | succ n ih =>
    cases k with
    | zero => rfl
    | succ k => exact ih k

/-- After the clear, the message state is zero and every other byte is as before (40_packer.md R118). -/
theorem loadByte_clearMessage (s : State) (a : Nat) :
    loadByte (clearMessage s) a = if isPackedByte a || isPayloadByte a then 0 else loadByte s a := by
  rw [loadByte_congr (s := storeBytes (payloadAddr 0) (zeroBytes Config.maxPayload)
    (storeBytes (packedAddr 0) (zeroBytes (Config.mBytes + 1)) s)) (by simp [Memory.clearMessage]) (by simp)]
  rw [loadByte_storeBytes, loadByte_storeBytes, zeroBytes_length, zeroBytes_length, zeroBytes_getD, zeroBytes_getD]
  simp only [isStorage_iff, Bool.or_eq_true, isPackedByte_iff, isPayloadByte_iff, payloadAddr, packedAddr]
  have h1 : Config.maxPayload = 255 := rfl
  have h2 : Config.mBytes = 5 := rfl
  split_ifs <;> first | rfl | omega

/-- ENCODE's writes: the frame in TEXT, the packed bytes in PACKED, every other byte as before (42_hex_codec.md R146). -/
theorem loadByte_writeFrame (p : Packed) (q : List Byte) (c : Byte) (s : State) (a : Nat) :
    loadByte (writeFrame p q c s) a =
      loadByte (storeBytes (packedAddr 0) p.toList (storeBytes (textAddr 0) (frameText p q c) s)) a :=
  loadByte_congr (by simp) (by simp) a

/-- DECODE's writes: the packed bytes in PACKED, the payload in PAYLOAD, every other byte as before
(42_hex_codec.md R147). -/
theorem loadByte_writeMessage (f : Frame) (s : State) (a : Nat) :
    loadByte (writeMessage f s) a =
      loadByte (storeBytes (payloadAddr 0) f.payload (storeBytes (packedAddr 0) f.packed.toList s)) a :=
  loadByte_congr (by simp) (by simp) a

/-- After a reset, a byte holds what the spec gives it, or a fresh free value (70_reset_and_hazards.md R240, R241). -/
theorem loadByte_resetBlock (s : State) (a : Nat) :
    loadByte (resetBlock s) a =
      if isPayloadByte a || isTextByte a then Config.unspecifiedByte (s.epoch + 1) a else 0 := by
  simp only [loadByte, resetBlock_mem, resetBlock_epoch, State.reset, Memory.read?, Memory.find, Memory.unlisted,
    isStorage]
  by_cases h : (isPayloadByte a || isTextByte a) = true
  · have : (isPackedByte a || isPayloadByte a || isTextByte a) = true := by
      simp only [Bool.or_eq_true] at h ⊢
      tauto
    simp [h, this]
  · simp only [Bool.not_eq_true] at h
    simp only [h]
    split_ifs <;> simp_all

@[simp] theorem clearMessage_wf (s : State) (h : s.mem.wf = true) : (clearMessage s).mem.wf = true := by
  rw [clearMessage_mem, Memory.clearMessage]
  exact Memory.wf_writeBytes _ _ _ (Memory.wf_writeBytes _ _ _ h)

@[simp] theorem writeFrame_wf (p : Packed) (q : List Byte) (c : Byte) (s : State) (h : s.mem.wf = true) :
    (writeFrame p q c s).mem.wf = true :=
  Memory.wf_writeBytes _ _ _ (Memory.wf_writeBytes _ _ _ h)

@[simp] theorem writeMessage_wf (f : Frame) (s : State) (h : s.mem.wf = true) : (writeMessage f s).mem.wf = true :=
  Memory.wf_writeBytes _ _ _ (Memory.wf_writeBytes _ _ _ h)

/-- The text of a frame is as long as 42_hex_codec.md R145 says. -/
theorem frameText_length (p : Packed) (q : List Byte) (c : Byte) :
    (frameText p q c).length = frameLen q.length := by
  simp [frameText, renderPair, Packed.toList, frameLen, Config.minFrameLen]
  omega

@[simp] theorem payloadBytes_length (s : State) : (payloadBytes s).length = payloadCount s := by
  simp [payloadBytes]

theorem payloadCount_lt (s : State) : payloadCount s < 256 := (s.fields.byteCount.setWidth 8).isLt

theorem payloadTooLarge_iff (s : State) : payloadTooLarge s = true ↔ 255 < s.fields.byteCount.toNat := by
  simp only [payloadTooLarge, decide_eq_true_eq]
  rfl

theorem payloadTooLarge_eq_false (s : State) : payloadTooLarge s = false ↔ s.fields.byteCount.toNat ≤ 255 := by
  rw [← Bool.not_eq_true, payloadTooLarge_iff, Nat.not_lt]

/-- Where no payload is too large, the payload count is F_BYTECOUNT itself. -/
theorem payloadCount_eq (s : State) (h : s.fields.byteCount.toNat ≤ 255) :
    payloadCount s = s.fields.byteCount.toNat := by
  simp only [payloadCount, BitVec.toNat_setWidth]
  omega

/-- What a byte reads after a write of the packed bytes. -/
theorem loadByte_storePacked (p : Packed) (s : State) (a : Nat) :
    loadByte (storeBytes (packedAddr 0) p.toList s) a =
      if 0x080 ≤ a ∧ a < 0x086 then p.toList.getD (a - 0x080) 0 else loadByte s a := by
  have hl : p.toList.length = 6 := rfl
  rw [loadByte_storeBytes, hl]
  simp only [isStorage_iff, packedAddr, Nat.add_zero]
  split_ifs <;> first | omega | rfl

/-- What a byte reads after the writes of ENCODE (42_hex_codec.md R146). -/
theorem loadByte_writeFrame_cases (p : Packed) (q : List Byte) (c : Byte) (s : State) (hq : q.length < 256) (a : Nat) :
    loadByte (writeFrame p q c s) a =
      if 0x080 ≤ a ∧ a < 0x086 then p.toList.getD (a - 0x080) 0
      else if 0x400 ≤ a ∧ a < 0x400 + (15 + 2 * q.length) then (frameText p q c).getD (a - 0x400) 0
      else loadByte s a := by
  rw [loadByte_writeFrame, loadByte_storePacked, loadByte_storeBytes, frameText_length, frameLen]
  have h15 : Config.minFrameLen = 15 := rfl
  simp only [isStorage_iff, textAddr, Nat.add_zero]
  split_ifs <;> first | omega | rfl

/-- What a byte reads after the writes of a successful DECODE (42_hex_codec.md R147). -/
theorem loadByte_writeMessage_cases (f : Frame) (s : State) (hq : f.payload.length ≤ 255) (a : Nat) :
    loadByte (writeMessage f (clearMessage s)) a =
      if 0x080 ≤ a ∧ a < 0x086 then f.packed.toList.getD (a - 0x080) 0
      else if 0x100 ≤ a ∧ a < 0x100 + f.payload.length then f.payload.getD (a - 0x100) 0
      else if 0x100 ≤ a ∧ a < 0x1FF then 0
      else loadByte s a := by
  rw [loadByte_writeMessage, loadByte_storeBytes, loadByte_storePacked, loadByte_clearMessage]
  simp only [isStorage_iff, payloadAddr, Nat.add_zero, Bool.or_eq_true, isPackedByte_iff, isPayloadByte_iff]
  split_ifs <;> first | omega | rfl

end Sys2Proof.Machine
end

