-- ==== Sys2Proof/Laws/Meanings.lean ====
section
/-! SUPPORT. What each meaning and each parsing operation can do: one lemma for each way it ends, so that no proof
unfolds a meaning. -/

namespace Sys2Proof.Machine

/-! ### Text -/

/-- A pair fails only as InvalidHexDigit. -/
theorem hexPair_error {hi lo : Byte} {e : ErrorCode} (h : hexPair hi lo = .error e) : e = .invalidHexDigit := by
  unfold hexPair at h
  split at h
  · cases h
  · exact (Except.error.inj h).symm

theorem parsePair_error {s : State} {i : Nat} {e : ErrorCode} (h : parsePair s i = .error e) :
    e = .invalidHexDigit := hexPair_error h

/-- Pairs one after the other: the first, then the rest two characters on. -/
theorem parsePairs_succ (s : State) (i n : Nat) :
    parsePairs s i (n + 1) =
      match parsePair s i with
      | .error e => .error e
      | .ok b =>
        match parsePairs s (i + 2) n with
        | .error e => .error e
        | .ok bs => .ok (b :: bs) := by
  simp only [parsePairs, bind, Except.bind, pure, Except.pure]
  cases parsePair s i with
  | error e => rfl
  | ok b => cases parsePairs s (i + 2) n <;> rfl

theorem parsePairs_error {s : State} {i n : Nat} {e : ErrorCode} (h : parsePairs s i n = .error e) :
    e = .invalidHexDigit := by
  induction n generalizing i with
  | zero => simp [parsePairs] at h
  | succ n ih =>
    rw [parsePairs_succ] at h
    split at h
    · rename_i h'
      cases h
      exact parsePair_error h'
    · split at h
      · rename_i h'
        cases h
        exact ih h'
      · cases h

/-- Pairs that parse: as many as asked for, each the pair at its place. -/
theorem parsePairs_ok_iff (s : State) (i n : Nat) (bs : List Byte) :
    parsePairs s i n = .ok bs ↔
      bs.length = n ∧ ∀ k < n, parsePair s (i + 2 * k) = .ok (bs.getD k 0) := by
  induction n generalizing i bs with
  | zero =>
    simp only [parsePairs, Except.ok.injEq]
    constructor
    · rintro rfl
      simp
    · rintro ⟨h, -⟩
      exact (List.length_eq_zero_iff.1 h).symm
  | succ n ih =>
    rw [parsePairs_succ]
    constructor
    · intro h
      split at h
      · cases h
      · rename_i b hb
        split at h
        · cases h
        · rename_i cs hcs
          cases h
          obtain ⟨hl, hk⟩ := (ih (i + 2) cs).1 hcs
          refine ⟨by simp [hl], fun k hkn => ?_⟩
          cases k with
          | zero => simpa using hb
          | succ k =>
            have := hk k (by omega)
            rw [show i + 2 + 2 * k = i + 2 * (k + 1) by omega] at this
            simpa using this
    · rintro ⟨hl, hk⟩
      cases bs with
      | nil => simp at hl
      | cons b cs =>
        have h0 := hk 0 (by omega)
        simp only [Nat.mul_zero, Nat.add_zero, List.getD_cons_zero] at h0
        have hrest : parsePairs s (i + 2) n = .ok cs := by
          refine (ih (i + 2) cs).2 ⟨by simpa using hl, fun k hkn => ?_⟩
          have := hk (k + 1) (by omega)
          rw [show i + 2 * (k + 1) = i + 2 + 2 * k by omega] at this
          simpa using this
        rw [h0]
        simp only [hrest]

/-- The metadata bytes parse where their five pairs do. -/
theorem parsePacked_ok_iff (s : State) (bc : Byte) (p : Packed) :
    parsePacked s bc = .ok p ↔
      p.p0 = bc ∧ parsePair s 3 = .ok p.p1 ∧ parsePair s 5 = .ok p.p2 ∧ parsePair s 7 = .ok p.p3 ∧
        parsePair s 9 = .ok p.p4 ∧ parsePair s 11 = .ok p.p5 := by
  simp only [parsePacked, bind, Except.bind, pure, Except.pure]
  constructor
  · intro h
    split at h <;> try cases h
    split at h <;> try cases h
    split at h <;> try cases h
    split at h <;> try cases h
    split at h <;> cases h
    simp_all
  · rintro ⟨h0, h1, h2, h3, h4, h5⟩
    simp [h1, h2, h3, h4, h5, ← h0]

theorem parsePacked_error {s : State} {bc : Byte} {e : ErrorCode} (h : parsePacked s bc = .error e) :
    e = .invalidHexDigit := by
  simp only [parsePacked, bind, Except.bind, pure, Except.pure] at h
  split at h
  · cases h
    rename_i h'
    exact parsePair_error h'
  split at h
  · cases h
    rename_i h'
    exact parsePair_error h'
  split at h
  · cases h
    rename_i h'
    exact parsePair_error h'
  split at h
  · cases h
    rename_i h'
    exact parsePair_error h'
  split at h
  · cases h
    rename_i h'
    exact parsePair_error h'
  cases h

/-- DECODE's parsing and checks, written out (42_hex_codec.md R147). -/
theorem decodeFrame_eq (s : State) :
    decodeFrame s =
      if s.declLen.toNat < 15 then .error .frameTooShort
      else
        match parsePair s 1 with
        | .error e => .error e
        | .ok bc =>
          if s.declLen.toNat < 15 + 2 * bc.toNat then .error .frameIncomplete
          else if textChar s 0 ≠ 0x3A#8 then .error .invalidStartMarker
          else
            match parsePacked s bc with
            | .error e => .error e
            | .ok p =>
              match parsePairs s 13 bc.toNat with
              | .error e => .error e
              | .ok q =>
                match parsePair s (13 + 2 * bc.toNat) with
                | .error e => .error e
                | .ok c => if checksumOf p q ≠ c then .error .checksumMismatch else .ok ⟨p, q, c⟩ := by
  simp only [decodeFrame, bind, Except.bind, pure, Except.pure, throw, throwThe, MonadExceptOf.throw, frameLen,
    Config.minFrameLen, Config.marker]
  by_cases h1 : s.declLen.toNat < 15
  · simp only [h1, if_true]
  simp only [h1, if_false]
  cases parsePair s 1 with
  | error e => rfl
  | ok bc =>
    by_cases h2 : s.declLen.toNat < 15 + 2 * bc.toNat
    · simp only [h2, if_true]
    simp only [h2, if_false]
    by_cases h3 : textChar s 0 = 0x3A#8
    · simp only [h3, ne_eq, not_true_eq_false, if_false]
      cases parsePacked s bc with
      | error e => rfl
      | ok p =>
        cases parsePairs s 13 bc.toNat with
        | error e => rfl
        | ok q =>
          cases parsePair s (13 + 2 * bc.toNat) with
          | error e => rfl
          | ok c =>
            by_cases h4 : checksumOf p q = c
            · simp only [h4, not_true_eq_false, if_false]
            · simp only [h4, not_false_eq_true, if_true]
    · simp only [h3, ne_eq, not_false_eq_true, if_true]

/-- FRAMELEN's checks, written out (43_frame_sizer.md R172). -/
theorem predictLength_eq (s : State) :
    predictLength s =
      if s.declLen.toNat < 15 then .error .frameTooShort
      else
        match parsePair s 1 with
        | .error e => .error e
        | .ok bc => .ok (15 + 2 * bc.toNat) := by
  simp only [predictLength, bind, Except.bind, pure, Except.pure, throw, throwThe, MonadExceptOf.throw, frameLen,
    Config.minFrameLen]
  by_cases h : s.declLen.toNat < 15
  · simp only [h, if_true]
  · simp only [h, if_false]
    cases parsePair s 1 <;> rfl

/-! ### How each meaning ends -/

theorem exec_nop (s : State) : exec .nop s = .next (complete 0 0 s) := rfl

theorem exec_pack (s : State) :
    exec .pack s = .next (complete 0 0 (storeBytes (packedAddr 0) (packBytes s.fields).toList s)) := rfl

theorem exec_unpack (s : State) :
    exec .unpack s = .next (complete 0 0 { s with fields := unpackBytes (loadPacked s) }) := rfl

theorem exec_clear (s : State) : exec .clear s = .next (complete 0 0 (clearMessage s)) := rfl

theorem exec_cksum (s : State) :
    exec .cksum s =
      if payloadTooLarge s then .next (complete 2 0 s)
      else .next (complete 0 ((computeChecksum s).setWidth 16) { s with checksum := computeChecksum s }) := rfl

theorem exec_validate (b : Byte) (s : State) :
    exec (.validate b) s =
      if payloadTooLarge s then .next (complete 2 0 s)
      else .next (complete 0 (if b = computeChecksum s then 1 else 0) s) := rfl

theorem exec_encode (s : State) :
    exec .encode s =
      if payloadTooLarge s then .next (complete 2 0 s)
      else .next (complete 0 (BitVec.ofNat 16 (frameLen (payloadCount s)))
        (writeFrame (packBytes s.fields) (payloadBytes s) (computeChecksum s) s)) := rfl

theorem exec_ismark (c : Byte) (s : State) :
    exec (.ismark c) s = .next (complete 0 (if c = Config.marker then 1 else 0) s) := rfl

theorem exec_b2h (b : Byte) (s : State) :
    exec (.b2h b) s = .next (complete 0 (hexchar (lowNibble b) ++ hexchar (highNibble b)) s) := rfl

theorem exec_h2b (hi lo : Byte) (s : State) :
    exec (.h2b hi lo) s =
      match hexPair hi lo with
      | .error _ => .next (complete 8 0 s)
      | .ok b => .next (complete 0 (b.setWidth 16) s) := by
  simp only [exec, execH2b]
  cases h : hexPair hi lo with
  | error e =>
    rw [hexPair_error h]
    rfl
  | ok b => rfl

/-- FRAMELEN ends in one of three ways (43_frame_sizer.md R172). -/
theorem exec_framelen_cases (s : State) :
    (s.declLen.toNat < 15 ∧ exec .framelen s = .next (complete 4 0 s)) ∨
    (15 ≤ s.declLen.toNat ∧ parsePair s 1 = .error .invalidHexDigit ∧ exec .framelen s = .next (complete 8 0 s)) ∨
    (15 ≤ s.declLen.toNat ∧ ∃ bc, parsePair s 1 = .ok bc ∧
      exec .framelen s = .next (complete 0 (BitVec.ofNat 16 (15 + 2 * bc.toNat)) s)) := by
  simp only [exec, execFramelen, predictLength_eq]
  by_cases hl : s.declLen.toNat < 15
  · left
    simp [hl, ErrorCode.code]
  · right
    cases h : parsePair s 1 with
    | error e =>
      left
      rw [parsePair_error h]
      simp [hl, ErrorCode.code]
      omega
    | ok bc =>
      right
      exact ⟨by omega, bc, rfl, by simp [hl]⟩

/-- DECODE ends in one of two ways: an error over the cleared message, or the frame written (42_hex_codec.md R147). -/
theorem exec_decode_cases (s : State) :
    (∃ e, decodeFrame (clearMessage s) = .error e ∧ exec .decode s = .next (complete e.code 0 (clearMessage s))) ∨
    (∃ f, decodeFrame (clearMessage s) = .ok f ∧
      exec .decode s =
        .next (complete 0 (BitVec.ofNat 16 (frameLen f.packed.p0.toNat)) (writeMessage f (clearMessage s)))) := by
  simp only [exec, execDecode]
  cases decodeFrame (clearMessage s) with
  | error e => exact .inl ⟨e, rfl, rfl⟩
  | ok f => exact .inr ⟨f, rfl, rfl⟩

/-- The errors DECODE can raise (60_exceptions.md R202). -/
theorem decodeFrame_error {s : State} {e : ErrorCode} (h : decodeFrame s = .error e) :
    e = .frameTooShort ∨ e = .frameIncomplete ∨ e = .invalidStartMarker ∨ e = .checksumMismatch ∨
      e = .invalidHexDigit := by
  rw [decodeFrame_eq] at h
  split at h
  · cases h
    simp
  split at h
  · rename_i h'
    cases h
    simp [parsePair_error h']
  split at h
  · cases h
    simp
  split at h
  · cases h
    simp
  split at h
  · rename_i h'
    cases h
    simp [parsePacked_error h']
  split at h
  · rename_i h'
    cases h
    simp [parsePairs_error h']
  split at h
  · rename_i h'
    cases h
    simp [parsePair_error h']
  split at h
  · cases h
    simp
  · cases h

/-- Every meaning answers a next state: it completes, leaves IE, CMD and PENDING alone, and keeps the memory's canonical
form (60_exceptions.md R200, R205). -/
theorem exec_completes (i : Instr) (s : State) :
    ∃ (e : BitVec 4) (r : Half) (t : State), exec i s = .next (complete e r t) ∧ t.ie = s.ie ∧ t.cmd = s.cmd ∧
      t.pending = s.pending ∧ (s.mem.wf = true → t.mem.wf = true) := by
  cases i with
  | nop => exact ⟨_, _, _, exec_nop s, rfl, rfl, rfl, id⟩
  | pack => exact ⟨_, _, _, exec_pack s, rfl, rfl, rfl, fun h => Memory.wf_writeBytes _ _ _ h⟩
  | unpack => exact ⟨_, _, _, exec_unpack s, rfl, rfl, rfl, id⟩
  | cksum =>
    rw [exec_cksum]
    split_ifs
    · exact ⟨_, _, _, rfl, rfl, rfl, rfl, id⟩
    · exact ⟨_, _, _, rfl, rfl, rfl, rfl, id⟩
  | validate b =>
    rw [exec_validate]
    split_ifs <;> exact ⟨_, _, _, rfl, rfl, rfl, rfl, id⟩
  | encode =>
    rw [exec_encode]
    split_ifs
    · exact ⟨_, _, _, rfl, rfl, rfl, rfl, id⟩
    · exact ⟨_, _, _, rfl, by simp, by simp, by simp, writeFrame_wf _ _ _ _⟩
  | decode =>
    rcases exec_decode_cases s with ⟨e, -, h⟩ | ⟨f, -, h⟩
    · exact ⟨_, _, _, h, by simp, by simp, by simp, clearMessage_wf s⟩
    · exact ⟨_, _, _, h, by simp, by simp, by simp, fun hw => writeMessage_wf f _ (clearMessage_wf s hw)⟩
  | framelen =>
    rcases exec_framelen_cases s with ⟨-, h⟩ | ⟨-, -, h⟩ | ⟨-, bc, -, h⟩
    · exact ⟨_, _, _, h, rfl, rfl, rfl, id⟩
    · exact ⟨_, _, _, h, rfl, rfl, rfl, id⟩
    · exact ⟨_, _, _, h, rfl, rfl, rfl, id⟩
  | clear => exact ⟨_, _, _, exec_clear s, by simp, by simp, by simp, clearMessage_wf s⟩
  | ismark c => exact ⟨_, _, _, exec_ismark c s, rfl, rfl, rfl, id⟩
  | h2b hi lo =>
    rw [exec_h2b]
    split
    · exact ⟨_, _, _, rfl, rfl, rfl, rfl, id⟩
    · exact ⟨_, _, _, rfl, rfl, rfl, rfl, id⟩
  | b2h b => exact ⟨_, _, _, exec_b2h b s, rfl, rfl, rfl, id⟩

end Sys2Proof.Machine
end

