-- ==== Sys2Proof/Laws/PerInstr.lean ====
section
/-! SUPPORT. Facts about every command as syntax, one lemma per constructor of `Instr`. -/

namespace Sys2Proof.Laws.LegalWord

/-- The encoder writes a legal word (30_encoding.md R94, R98). -/
def Statement (i : Sys2Proof.Instr) : Prop := Sys2Proof.wordWellFormed (Sys2Proof.encode i) = true

/-- A word with an opcode that uses ARG0, and nothing above ARG0, is legal. -/
theorem of_arg0 (w : Sys2Proof.Word) (opc : Nat) (b : Sys2Proof.Byte) (h : w.toNat = opc + b.toNat * 2 ^ 8)
    (ho : opc = 4 ∨ opc = 9 ∨ opc = 11) : Sys2Proof.wordWellFormed w = true := by
  have hb := b.isLt
  have h0 : w.toNat % 256 = opc := by omega
  have h1 : w.toNat / 2 ^ 24 = 0 := by omega
  have h2 : w.toNat / 2 ^ 16 % 256 = 0 := by omega
  simp only [Sys2Proof.wordWellFormed, Sys2Proof.opcodeAssigned, Sys2Proof.reservedClear, Sys2Proof.unusedClear,
    h0, h1, h2]
  rcases ho with rfl | rfl | rfl <;> simp

theorem nop : Statement .nop := rfl
theorem pack : Statement .pack := rfl
theorem unpack : Statement .unpack := rfl
theorem cksum : Statement .cksum := rfl
theorem validate (claimed : Sys2Proof.Byte) : Statement (.validate claimed) :=
  of_arg0 _ 4 claimed (Sys2Proof.encode_validate_toNat claimed) (by omega)
theorem encode : Statement .encode := rfl
theorem decode : Statement .decode := rfl
theorem framelen : Statement .framelen := rfl
theorem clear : Statement .clear := rfl
theorem ismark (char : Sys2Proof.Byte) : Statement (.ismark char) :=
  of_arg0 _ 9 char (Sys2Proof.encode_ismark_toNat char) (by omega)
theorem h2b (hi lo : Sys2Proof.Byte) : Statement (.h2b hi lo) := by
  have hhi := hi.isLt
  have hlo := lo.isLt
  have h := Sys2Proof.encode_h2b_toNat hi lo
  have h0 : (Sys2Proof.encode (.h2b hi lo)).toNat % 256 = 10 := by omega
  have h1 : (Sys2Proof.encode (.h2b hi lo)).toNat < 2 ^ 24 := by omega
  simp [Statement, Sys2Proof.wordWellFormed, Sys2Proof.opcodeAssigned, Sys2Proof.reservedClear,
    Sys2Proof.unusedClear, h0]
  exact h1
theorem b2h (byte : Sys2Proof.Byte) : Statement (.b2h byte) :=
  of_arg0 _ 11 byte (Sys2Proof.encode_b2h_toNat byte) (by omega)

end Sys2Proof.Laws.LegalWord
end

