-- ==== Sys2Proof/Machine/HostProgram.lean ====
section
/-! DEFINITION. The notation of host programs (30_encoding.md R97): each line as the inputs it stands for. -/

namespace Sys2Proof.Machine

/-- `W32 off, v` (30_encoding.md R97). -/
def w32 (off : Nat) (v : Word) : List HostOp := [.write off 4 v]

/-- `W8 off, v` (30_encoding.md R97). -/
def w8 (off : Nat) (v : Byte) : List HostOp := [.write off 1 (v.setWidth 32)]

/-- `R32 off` (30_encoding.md R97). -/
def r32 (off : Nat) : List HostOp := [.read off 4]

/-- `R8 off` (30_encoding.md R97). -/
def r8 (off : Nat) : List HostOp := [.read off 1]

/-- `RUN m ops`: the command word to CMD, then POLL (30_encoding.md R97). -/
def runCommand (i : Instr) : List HostOp := w32 0x014 (encode i) ++ [.poll]

/-- `WTEXT i, "s"`: the characters to TEXT from index `i` on, in order (30_encoding.md R97). -/
def wtext (i : Nat) : List Byte → List HostOp
  | [] => []
  | c :: cs => w8 (textAddr i) c ++ wtext (i + 1) cs

/-- Give the block a host program to serve after what waits already. -/
def State.withProgram (ops : List HostOp) (s : State) : State := { s with inputs := s.inputs ++ ops }

end Sys2Proof.Machine
end

