-- ==== Sys2Proof/Tests/Slice0.lean ====
section
/-! SUPPORT. The model's own tests. Expected values are those of 95_test_vectors.md (the vector's name stands in the
comment) or are worked out by hand from the rule named there. The witnesses at the end meet the hypotheses of the
statements of Certificates/Slice0/Obligations.lean. -/

namespace Sys2Proof.Tests

open Sys2Proof Sys2Proof.Machine

/-! ### Helpers -/

/-- The next state of an outcome, none for a stop. -/
def next? : Host.Outcome State Fault Refusal → Option State
  | .next t => some t
  | .fault _ => none
  | .refused _ => none

/-- The state after the block has performed the command word `w`, placed in `s`. -/
def after (w : Nat) (s : State) : Option State := next? (step (s.withFetchWord 32 w))

/-- STATUS and RESULT after a command, as 95_test_vectors.md lists them. -/
def ends (w : Nat) (s : State) : Option (Nat × Nat) :=
  (after w s).map (fun t => ((statusWord t).toNat, t.result.toNat))

/-- The reset state with these characters at TEXT[0] and this declared length. -/
def textState (cs : List Nat) (len : Nat) : State :=
  { storeBytes (textAddr 0) (cs.map (BitVec.ofNat 8)) State.reset with declLen := BitVec.ofNat 16 len }

/-- The frame `:0200010500000102F5` of 95_test_vectors.md, Part 2. -/
def frameF : List Nat :=
  [0x3A, 0x30, 0x32, 0x30, 0x30, 0x30, 0x31, 0x30, 0x35, 0x30, 0x30, 0x30, 0x30, 0x30, 0x31, 0x30, 0x32, 0x46, 0x35]

/-- The minimum frame `:00000000000000` (vector DC18). -/
def frame0 : List Nat := [0x3A, 0x30, 0x30, 0x30, 0x30, 0x30, 0x30, 0x30, 0x30, 0x30, 0x30, 0x30, 0x30, 0x30, 0x30]

/-- The message of vector CK2: byte count 2, code detail 1, message id 5, payload 01 02. -/
def messageState : State :=
  { storeBytes (payloadAddr 0) [0x01, 0x02] State.reset with
    fields := { Fields.zero with byteCount := 2, codeDetail := 1, msgId := 5 } }

/-- A state with this F_BYTECOUNT. -/
def countState (n : Nat) : State :=
  { State.reset with fields := { Fields.zero with byteCount := BitVec.ofNat 16 n } }

/-- An idle state with one input waiting. -/
def idleWith (op : HostOp) : State := { State.reset with inputs := [op] }

/-- The command `w` in flight, one input to be served before it is performed. -/
def busyWith (w : Word) (op : HostOp) : State :=
  { State.reset with cmd := w, pending := w, busy := true, wait := 1, inputs := [op] }

/-! ### Well-formed words: one ill-formed word for each check -/

/-- CW2: opcode 0x0C fails check 1. -/
theorem test_wf_refuses_reserved_opcode :
    opcodeAssigned 0x0000000C#32 = false ∧ wordWellFormed 0x0000000C#32 = false := by decide

/-- CW4: RSV = 1 fails check 2. -/
theorem test_wf_refuses_reserved_bits :
    reservedClear 0x01000000#32 = false ∧ wordWellFormed 0x01000000#32 = false := by decide

/-- CW5: PACK with ARG0 = 1 fails check 3. -/
theorem test_wf_refuses_unused_arg0 :
    unusedClear 0x00000101#32 = false ∧ wordWellFormed 0x00000101#32 = false := by decide

/-- CW6: VALIDATE with ARG1 = 1 fails check 3. -/
theorem test_wf_refuses_unused_arg1 :
    unusedClear 0x00010004#32 = false ∧ wordWellFormed 0x00010004#32 = false := by decide

/-! ### Decoding: a word of every constructor, written out from 30_encoding.md R90 and R93 -/

/-- OPC 0x00. -/
theorem test_decode_nop : decodeTableWord 32 0x00000000 = some .nop := by decide
/-- OPC 0x01. -/
theorem test_decode_pack : decodeTableWord 32 0x00000001 = some .pack := by decide
/-- OPC 0x02. -/
theorem test_decode_unpack : decodeTableWord 32 0x00000002 = some .unpack := by decide
/-- OPC 0x03. -/
theorem test_decode_cksum : decodeTableWord 32 0x00000003 = some .cksum := by decide
/-- OPC 0x04, ARG0 0xF5 (R98). -/
theorem test_decode_validate : decodeTableWord 32 0x0000F504 = some (.validate 0xF5#8) := by decide
/-- OPC 0x05. -/
theorem test_decode_encode : decodeTableWord 32 0x00000005 = some .encode := by decide
/-- OPC 0x06. -/
theorem test_decode_decode : decodeTableWord 32 0x00000006 = some .decode := by decide
/-- OPC 0x07. -/
theorem test_decode_framelen : decodeTableWord 32 0x00000007 = some .framelen := by decide
/-- OPC 0x08. -/
theorem test_decode_clear : decodeTableWord 32 0x00000008 = some .clear := by decide
/-- OPC 0x09, ARG0 0x3A (R98). -/
theorem test_decode_ismark : decodeTableWord 32 0x00003A09 = some (.ismark 0x3A#8) := by decide
/-- OPC 0x0A, ARG0 0x41, ARG1 0x62 (R98). -/
theorem test_decode_h2b : decodeTableWord 32 0x0062410A = some (.h2b 0x41#8 0x62#8) := by decide
/-- OPC 0x0B, ARG0 0xAB (R98). -/
theorem test_decode_b2h : decodeTableWord 32 0x0000AB0B = some (.b2h 0xAB#8) := by decide

/-- CW3 to CW8: illegal words are rejected by name. -/
theorem test_decode_illegal :
    decode 0x000000FF#32 = .error (.reservedOpcode 0xFF#8) ∧ decode 0x01000000#32 = .error (.reservedBits 0x01#8) ∧
    decode 0x0100410A#32 = .error (.reservedBits 0x01#8) ∧ decode 0x00000101#32 = .error (.unusedOperand 0x01#8) ∧
    decode 0x00010004#32 = .error (.unusedOperand 0x04#8) ∧
    decode 0x00013A09#32 = .error (.unusedOperand 0x09#8) := ⟨rfl, rfl, rfl, rfl, rfl, rfl⟩

/-! ### One step of each command -/

/-- CW1, after an error: NOP clears a stale ERR and RESULT. -/
theorem test_step_nop :
    ends 0x00000000 { State.reset with err := 7, result := 9 } = some (0x002, 0) := by decide +kernel

/-- CW2, CW5: an illegal word ends with IllegalCommand. -/
theorem test_step_illegal :
    ends 0x0000000C messageState = some (0x902, 0) ∧ ends 0x00000101 messageState = some (0x902, 0) := by
  decide +kernel

/-- PK3: out-of-range fields are truncated. -/
theorem test_step_pack :
    (after 0x00000001 { State.reset with fields := ⟨0, 7, 6, 3, 0xF, 9, 0x25, 0, 2, 0xFF, 0⟩ }).map
      (fun t => loadBytes t (packedAddr 0) 6) = some [0x00, 0xEF, 0x25, 0x00, 0x7F, 0x00] := by decide +kernel

/-- PK6: a byte count of 0x1FF packs to 0xFF, without an error. -/
theorem test_step_pack_truncates_count :
    (after 0x00000001 (countState 0x1FF)).map (fun t => (loadByte t (packedAddr 0), t.err)) = some (0xFF, 0) := by
  decide +kernel

/-- UP1. -/
theorem test_step_unpack :
    (after 0x00000002 (storeBytes (packedAddr 0) [0x03, 0x5D, 0x45, 0xFF, 0xFF, 0x10] State.reset)).map
      (fun t => (t.fields, readReg t .fCodeTag)) = some (⟨3, 1, 1, 1, 5, 2, 5, 0xFF, 1, 0x7F, 0x10⟩, 1) := by
  decide +kernel

/-- CK2. -/
theorem test_step_cksum :
    ends 0x00000003 messageState = some (0x002, 0xF5) ∧
    (after 0x00000003 messageState).map (fun t => t.checksum) = some 0xF5 := by decide +kernel

/-- CK9: PayloadTooLarge, F_CHECKSUM kept. -/
theorem test_step_cksum_too_large :
    (after 0x00000003 { countState 256 with checksum := 0x33 }).map (fun t => ((statusWord t).toNat, t.checksum)) =
      some (0x202, 0x33) := by decide +kernel

/-- VA1, VA2. -/
theorem test_step_validate :
    ends 0x0000F504 messageState = some (0x002, 1) ∧ ends 0x0000F404 messageState = some (0x002, 0) := by
  decide +kernel

/-- EN2. -/
theorem test_step_encode :
    ends 0x00000005 messageState = some (0x002, 19) ∧
    (after 0x00000005 messageState).map (fun t => (loadBytes t (textAddr 0) 19).map BitVec.toNat) = some frameF := by
  decide +kernel

/-- EN8: nothing is written with PayloadTooLarge. -/
theorem test_step_encode_too_large :
    (after 0x00000005 (storeByte (textAddr 0) 0x3A (countState 256))).map
      (fun t => ((statusWord t).toNat, t.mem)) = some (0x202, [(0x400, 0x3A#8)]) := by decide +kernel

/-- DC1. -/
theorem test_step_decode :
    (after 0x00000006 (textState frameF 19)).map (fun t => ((statusWord t).toNat, t.result.toNat, t.fields, t.checksum,
      loadBytes t (payloadAddr 0) 3)) =
      some (0x002, 19, { Fields.zero with byteCount := 2, codeDetail := 1, msgId := 5 }, 0xF5, [0x01, 0x02, 0]) := by
  decide +kernel

/-- DC3, DC4, DC6 (first character `#`), DC12 (second character `G`), DC17 (last character `4`). -/
theorem test_step_decode_errors :
    ends 0x00000006 (textState frameF 14) = some (0x402, 0) ∧
    ends 0x00000006 (textState frameF 18) = some (0x502, 0) ∧
    ends 0x00000006 (textState (frameF.set 0 0x23) 19) = some (0x602, 0) ∧
    ends 0x00000006 (textState (frameF.set 2 0x47) 19) = some (0x802, 0) ∧
    ends 0x00000006 (textState (frameF.set 18 0x34) 19) = some (0x702, 0) := by decide +kernel

/-- FL1, FL3 (the marker is not checked). -/
theorem test_step_framelen :
    ends 0x00000007 (textState (frameF.take 15) 15) = some (0x002, 19) ∧
    ends 0x00000007 (textState [0x23, 0x46, 0x46] 15) = some (0x002, 525) := by decide +kernel

/-- FL2, FL5. -/
theorem test_step_framelen_errors :
    ends 0x00000007 (textState frameF 14) = some (0x402, 0) ∧
    ends 0x00000007 (textState [0x3A, 0x30, 0x5A] 15) = some (0x802, 0) := by decide +kernel

/-- CL1. -/
theorem test_step_clear :
    (after 0x00000008 { messageState with checksum := 5, declLen := 19, ie := true }).map
      (fun t => (t.fields, t.checksum, loadBytes t (payloadAddr 0) 2, t.declLen, t.ie)) =
      some (Fields.zero, 0, [0, 0], 19, true) := by decide +kernel

/-- IM1, IM3. -/
theorem test_step_ismark :
    ends 0x00003A09 State.reset = some (0x002, 1) ∧ ends 0x0000BA09 State.reset = some (0x002, 0) := by decide +kernel

/-- HB3, HB5. -/
theorem test_step_h2b :
    ends 0x0062410A State.reset = some (0x002, 0x00AB) ∧ ends 0x0030470A State.reset = some (0x802, 0) := by
  decide +kernel

/-- BH4, BH2. -/
theorem test_step_b2h :
    ends 0x0000AB0B State.reset = some (0x002, 0x4241) ∧ ends 0x00000F0B State.reset = some (0x002, 0x4630) := by
  decide +kernel

/-! ### The bus -/

/-- The response after one step from an idle state. -/
def answer (s : State) : Option BusResponse := (next? (step s)).bind (fun t => t.response)

/-- BU1 to BU3. -/
theorem test_bus_constants :
    answer (idleWith (.read 0x000 4)) = some ⟨.okay, 0x534D4F53⟩ ∧
    answer (idleWith (.read 0x004 4)) = some ⟨.okay, 0x00FF053A⟩ ∧
    answer (idleWith (.read 0x008 4)) = some ⟨.okay, 0x020D000F⟩ := by decide +kernel

/-- BU6, BU8, BU9, BU10: ERROR. -/
theorem test_bus_errors :
    answer (idleWith (.read 0x010 1)) = some ⟨.error, 0⟩ ∧ answer (idleWith (.read 0x020 4)) = some ⟨.error, 0⟩ ∧
    answer (idleWith (.read 0x7FC 4)) = some ⟨.error, 0⟩ ∧ answer (idleWith (.read 0x400 2)) = some ⟨.error, 0⟩ ∧
    answer (idleWith (.read 0x402 4)) = some ⟨.error, 0⟩ := by decide +kernel

/-- BU14: a word write to PACKED[4..7] stores the first two bytes only. -/
theorem test_bus_packed_word :
    (next? (step (idleWith (.write 0x084 4 0xAABBCCDD#32)))).map (fun t => loadWord t 0x084) = some 0x0000CCDD := by
  decide +kernel

/-- BU20: STATUS 0x706, all ones written: only ERR stays. -/
theorem test_bus_status_w1c :
    (next? (step { idleWith (.write 0x010 4 0xFFFFFFFF#32) with done := true, werr := true, err := 7 })).map
      (fun t => (statusWord t).toNat) = some 0x700 := by decide +kernel

/-- HZ1: a write to DECL_LEN while BUSY is dropped and sets WERR. -/
theorem test_busy_write_dropped :
    (next? (step (busyWith 0x6 (.write 0x01C 4 5)))).map (fun t => (t.declLen, t.werr, t.busy)) =
      some (0, true, true) := by decide +kernel

/-- HZ5: while CKSUM runs, F_CODEDETAIL reads its current value. -/
theorem test_busy_read_outside_write_set :
    answer { busyWith 0x3 (.read 0x058 4) with fields := { Fields.zero with codeDetail := 7 } } =
      some ⟨.okay, 7⟩ := by decide +kernel

/-- R246 with R57: while UNPACK runs, F_CODETAG, which is RO and so outside its write set, reads its current value;
F_CODECLASS takes a draw. -/
theorem test_busy_read_codetag_of_unpack :
    answer { busyWith 0x2 (.read 0x05C 4) with fields := { Fields.zero with codeClass := 3 } } = some ⟨.okay, 1⟩ ∧
    (next? (step (busyWith 0x2 (.read 0x05C 4)))).map (fun t => t.draws) = some 0 ∧
    (next? (step (busyWith 0x2 (.read 0x054 4)))).map (fun t => t.draws) = some 1 := by decide +kernel

/-- R246: while an illegal word is in flight, RESULT takes a draw and PACKED[0] does not. -/
theorem test_busy_read_illegal_word :
    (next? (step (busyWith 0xC (.read 0x018 4)))).map (fun t => t.draws) = some 1 ∧
    answer (busyWith 0xC (.read 0x080 1)) = some ⟨.okay, 0⟩ := by decide +kernel

/-- BU5: a write to ID is ignored with OKAY. -/
theorem test_bus_read_only_write :
    answer (idleWith (.write 0x000 4 0xFFFFFFFF#32)) = some ⟨.okay, 0⟩ ∧
    (next? (step (idleWith (.write 0x018 4 0xFFFFFFFF#32)))).map (fun t => t.result) = some 0 := by decide +kernel

/-- RS1: a reset with BUSY 1 abandons the command. -/
theorem test_reset_while_busy :
    (next? (step { busyWith 0x6 .reset with ie := true })).map (fun t => (statusWord t, t.cmd, t.ie)) =
      some (0, 0, false) := by decide +kernel

/-! ### Witnesses: states and operands that meet the hypotheses of the statements, one for each clause -/

/-- EncodeInvertsDecode: a word with both operands used. -/
theorem witness_EncodeInvertsDecode : decode 0x00FFFF0A#32 = .ok (.h2b 0xFF#8 0xFF#8) := rfl

/-- DecodeFollowsOpcodeMap: the first and the last row, and a word of each. -/
theorem witness_DecodeFollowsOpcodeMap :
    (⟨"NOP", 0x00000000#32, 0xFFFFFFFF#32⟩ : CommandRow) ∈ commandRows ∧
    CommandRow.spells ⟨"NOP", 0x00000000#32, 0xFFFFFFFF#32⟩ 0x00000000#32 = true ∧
    (⟨"B2H", 0x0000000B#32, 0xFFFF00FF#32⟩ : CommandRow) ∈ commandRows ∧
    CommandRow.spells ⟨"B2H", 0x0000000B#32, 0xFFFF00FF#32⟩ 0x0000FF0B#32 = true := by decide

/-- StepPerformsPendingCommand: with an input waiting but no wait, and with a wait but no input. -/
theorem witness_StepPerformsPendingCommand :
    (PerformsNext { busyWith 0x5 .poll with wait := 0 } ∧ decode (busyWith 0x5 .poll).pending = .ok .encode) ∧
    PerformsNext { busyWith 0x5 .poll with inputs := [], wait := 9 } :=
  ⟨⟨⟨rfl, .inl rfl⟩, rfl⟩, ⟨rfl, .inr rfl⟩⟩

/-- IllegalWordCompletesWithIllegalCommand: the first reserved opcode. -/
theorem witness_IllegalWordCompletesWithIllegalCommand :
    PerformsNext (State.reset.withFetchWord 32 0x0C) ∧
    wordWellFormed (State.reset.withFetchWord 32 0x0C).pending = false := ⟨⟨rfl, .inl rfl⟩, rfl⟩

/-- StepServesOldestInput: from an idle block, and from a BUSY one. -/
theorem witness_StepServesOldestInput :
    ServesNext .poll [] (idleWith .poll) ∧ ServesNext .poll [] (busyWith 0x6 .poll) :=
  ⟨⟨rfl, .inl rfl⟩, ⟨rfl, .inr (by decide)⟩⟩

/-- IdleBlockStaysIdle: the reset state. -/
theorem witness_IdleBlockStaysIdle : State.reset.busy = false ∧ State.reset.inputs = [] := ⟨rfl, rfl⟩

/-- EveryAcceptedCommandCompletes: a command that waits for one input. -/
theorem witness_EveryAcceptedCommandCompletes :
    (busyWith 0x6 .poll).busy = true ∧ HostOp.reset ∉ (busyWith 0x6 .poll).inputs := by decide

/-- StepKeepsInv: a command in flight meets the invariant, and its perform step answers a next state. -/
theorem witness_StepKeepsInv :
    Inv (State.reset.withFetchWord 32 0x0062410A) ∧ ∃ t, step (State.reset.withFetchWord 32 0x0062410A) = .next t :=
  ⟨⟨rfl, by decide, fun _ => rfl, fun _ => rfl, fun _ => rfl⟩, _, rfl⟩

/-- ResetEventSetsResetValues and ResetEventRedrawsBuffers: a reset while BUSY. -/
theorem witness_ResetEvents : ServesNext .reset [] (busyWith 0x6 .reset) := ⟨rfl, .inr (by decide)⟩

/-- CommandsRecordOnlyTheirCodes, second clause: an illegal word in flight. -/
theorem witness_CommandsRecordOnlyTheirCodes :
    decode (State.reset.withFetchWord 32 0xFF).pending = .error (.reservedOpcode 0xFF#8) := rfl

/-- CommandsWriteOnlyTheirWriteSet: PACK completes; TEXT[0], F_MSGID and F_CODETAG are outside its write set, and so is
F_CODECLASS. -/
theorem witness_CommandsWriteOnlyTheirWriteSet :
    (∃ t, exec .pack State.reset = .next t) ∧ Spec.inWriteSet State.reset .pack 0x400 = false ∧
    Reg.ofOffset 0x060 = some .fMsgId ∧ Spec.inWriteSet State.reset .pack 0x060 = false ∧
    Reg.ofOffset 0x05C = some .fCodeTag ∧ Spec.inWriteSet State.reset .pack 0x05C = false ∧
    Spec.inWriteSet State.reset .pack 0x054 = false := ⟨⟨_, rfl⟩, rfl, rfl, rfl, rfl, rfl, rfl⟩

/-- InterruptFollowsDoneAndEnable: each of its five cases. -/
theorem witness_InterruptFollowsDoneAndEnable :
    (PerformsNext { State.reset.withFetchWord 32 0 with ie := true } ∧
      ∃ t, step { State.reset.withFetchWord 32 0 with ie := true } = .next t ∧ irq t = true) ∧
    (ServesNext (.write 0x010 4 2#32) [] (idleWith (.write 0x010 4 2#32)) ∧ (2#32).getLsbD 1 = true ∧
      ∃ t, step (idleWith (.write 0x010 4 2#32)) = .next t) ∧
    (ServesNext (.write 0x014 4 0#32) [] (idleWith (.write 0x014 4 0#32)) ∧
      (idleWith (.write 0x014 4 0#32)).busy = false ∧ ∃ t, step (idleWith (.write 0x014 4 0#32)) = .next t) ∧
    (ServesNext .reset [] (idleWith .reset) ∧ ∃ t, step (idleWith .reset) = .next t) ∧
    (ServesNext (.write 0x00C 4 1#32) [] { idleWith (.write 0x00C 4 1#32) with done := true } ∧
      ∃ t, step { idleWith (.write 0x00C 4 1#32) with done := true } = .next t ∧ irq t = true) :=
  ⟨⟨⟨rfl, .inl rfl⟩, _, rfl, rfl⟩, ⟨⟨rfl, .inl rfl⟩, by decide, _, rfl⟩, ⟨⟨rfl, .inl rfl⟩, rfl, _, rfl⟩, ⟨⟨rfl, .inl rfl⟩, _, rfl⟩,
    ⟨⟨rfl, .inl rfl⟩, _, rfl, rfl⟩⟩

/-- PackAndUnpackAreInverse, third clause: the largest values within the widths. -/
theorem witness_PackAndUnpackAreInverse :
    Spec.WithinWidths ⟨255, 3, 3, 1, 7, 7, 31, 255, 1, 127, 255⟩ := by
  unfold Spec.WithinWidths
  decide

/-- PackWritesPackedBytes, UnpackExtractsFields, ClearZeroesMessageState: a byte in each range and one outside both. -/
theorem witness_byte_ranges :
    ¬(0x080 ≤ 0x07F ∧ 0x07F < 0x086) ∧ ¬(0x080 ≤ 0x086 ∧ 0x086 < 0x086) ∧ ¬(0x100 ≤ 0x1FF ∧ 0x1FF < 0x1FF) := by
  decide

/-- CksumWritesChecksum, ValidateComparesChecksum, FrameBytesSumToZero, EncodeRendersFrame: the largest byte count. -/
theorem witness_largest_count : (countState 255).fields.byteCount.toNat ≤ 255 := by decide

/-- CksumWritesChecksum, ValidateComparesChecksum, EncodeRendersFrame: the smallest rejected byte count. -/
theorem witness_smallest_rejected_count : 255 < (countState 256).fields.byteCount.toNat := by decide

/-- OneByteChangeChangesChecksum: the last payload byte differs. -/
theorem witness_OneByteChangeChangesChecksum :
    (1#8 : Byte) ≠ 2#8 ∧ (⟨1, 0, 0, 0, 0, 0⟩ : Packed).toList ++ [1#8] = [1, 0, 0, 0, 0, 0] ++ 1#8 :: [] ∧
    (⟨1, 0, 0, 0, 0, 0⟩ : Packed).toList ++ [2#8] = [1, 0, 0, 0, 0, 0] ++ 2#8 :: [] := by decide

/-- DecodeWritesMessage: the frame of vector DC1, and the minimum frame of DC18. -/
theorem witness_DecodeWritesMessage :
    Spec.decodeCode (textState frameF 19) = (0, 2) ∧ Spec.decodeCode (textState frame0 15) = (0, 0) := by
  decide +kernel

/-- DecodeErrorLeavesZeroMessage: DECODE of an empty declared text ends with an error (DC19). -/
theorem witness_DecodeErrorLeavesZeroMessage :
    (next? (exec .decode messageState)).map (fun t => decide (t.err ≠ 0)) = some true := by decide +kernel

/-- DecodeIgnoresTextBeyondFrame: the same minimum frame with other text behind it and another declared length. -/
theorem witness_DecodeIgnoresTextBeyondFrame :
    Spec.textPair (textState frame0 15) 1 = some 0 ∧ 15 + 2 * 0 ≤ (textState frame0 15).declLen.toNat ∧
    15 + 2 * 0 ≤ (textState (frame0 ++ [0x58]) 65535).declLen.toNat ∧
    ∀ i < 15 + 2 * 0, textChar (textState frame0 15) i = textChar (textState (frame0 ++ [0x58]) 65535) i := by
  decide +kernel

/-- EncodeThenDecodeRoundTrips: the scenario message within its widths, and a declared length at RESULT. -/
theorem witness_EncodeThenDecodeRoundTrips :
    messageState.fields.byteCount.toNat ≤ 255 ∧
    (next? (exec .encode messageState)).map (fun t => decide (t.result.toNat ≤ (19#16).toNat)) = some true := by
  decide +kernel

/-- DecodeRecordsFirstError has no hypothesis; each of its codes is reached. -/
theorem witness_DecodeRecordsFirstError :
    (Spec.decodeCode (textState frameF 14)).1 = 4 ∧ (Spec.decodeCode (textState frameF 18)).1 = 5 ∧
    (Spec.decodeCode (textState (frameF.set 0 0x23) 19)).1 = 6 ∧
    (Spec.decodeCode (textState (frameF.set 18 0x34) 19)).1 = 7 ∧
    (Spec.decodeCode (textState (frameF.set 2 0x47) 19)).1 = 8 := by decide +kernel

/-- H2bConvertsPair: the largest byte, in mixed case; a bad first and a bad second character. -/
theorem witness_H2bConvertsPair :
    Spec.pair 0x66#8 0x46#8 = some 255 ∧ Spec.pair 0x47#8 0x30#8 = none ∧ Spec.pair 0x30#8 0x20#8 = none := by decide

/-- FramelenPredictsLength: each clause, at the two lengths where they meet; the largest byte count. -/
theorem witness_FramelenPredictsLength :
    (textState frame0 14).declLen.toNat < 15 ∧ 15 ≤ (textState [0x3A, 0x30, 0x5A] 15).declLen.toNat ∧
    Spec.textPair (textState [0x3A, 0x30, 0x5A] 15) 1 = none ∧
    15 ≤ (textState [0x3A, 0x46, 0x46] 15).declLen.toNat ∧
    Spec.textPair (textState [0x3A, 0x46, 0x46] 15) 1 = some 255 := by decide +kernel

/-- FramelenIsDecodeNeed: FRAMELEN succeeds with 19; the lengths 14, 15, 18 and 19 meet its clauses. -/
theorem witness_FramelenIsDecodeNeed :
    (next? (exec .framelen (textState frameF 15))).map (fun t => (t.err, t.result.toNat)) = some (0, 19) ∧
    (14#16).toNat < 15 ∧ 15 ≤ (15#16).toNat ∧ (18#16).toNat < 19 ∧ 19 ≤ (19#16).toNat := by decide +kernel

/-- CmdWriteAcceptsCommand: an illegal word is accepted too. -/
theorem witness_CmdWriteAcceptsCommand :
    ServesNext (.write 0x014 4 0x0C#32) [] (idleWith (.write 0x014 4 0x0C#32)) ∧
    (idleWith (.write 0x014 4 0x0C#32)).busy = false := ⟨⟨rfl, .inl rfl⟩, rfl⟩

/-- A BUSY block serves its one input, whatever it is. -/
theorem witness_busy_serves (op : HostOp) : ServesNext op [] (busyWith 0x6 op) ∧ (busyWith 0x6 op).busy = true :=
  ⟨⟨rfl, .inr Nat.one_ne_zero⟩, rfl⟩

/-- BusyWritesFollowHazardRule: a permitted offset at each edge of the map, CTRL, STATUS, and a refused access. -/
theorem witness_BusyWritesFollowHazardRule :
    (ServesNext (.write 0x60F 1 5) [] (busyWith 0x6 (.write 0x60F 1 5)) ∧ (0x60F : Nat) < 2048) ∧
    Spec.permitted 0x000 4 = true ∧ Spec.permitted 0x070 4 = true ∧ Spec.permitted 0x080 1 = true ∧
    Spec.permitted 0x60F 1 = true ∧ Spec.permitted 0x00C 4 = true ∧ Spec.permitted 0x010 4 = true ∧
    Spec.permitted 0x00C 1 = false ∧ Spec.permitted 0x610 1 = false ∧ Spec.permitted 0x402 4 = false :=
  ⟨⟨(witness_busy_serves _).1, by decide⟩, by decide⟩

/-- An idle block serves its one input, whatever it is: for IdleCtrlAndStatusWrites, ReadsHaveNoSideEffect,
IdleReadsReturnStoredValues, ErrorAccessChangesNothing, UnselectedAccessHasNoEffect, PollWaitsForCompletion. -/
theorem witness_idle_serves (op : HostOp) : ServesNext op [] (idleWith op) ∧ (idleWith op).busy = false :=
  ⟨⟨rfl, .inl rfl⟩, rfl⟩

/-- ErrorAccessChangesNothing: the last refused offset of the window, read and written. -/
theorem witness_ErrorAccessChangesNothing :
    (0x7FF : Nat) < 2048 ∧ Spec.permitted 0x7FF 4 = false ∧
    ServesNext (.read 0x7FF 4) [] (idleWith (.read 0x7FF 4)) ∧
    ServesNext (.write 0x7FF 4 1) [] (idleWith (.write 0x7FF 4 1)) :=
  ⟨by decide, by decide, (witness_idle_serves _).1, (witness_idle_serves _).1⟩

/-- UnselectedAccessHasNoEffect: the first offset outside the window, read and written. -/
theorem witness_UnselectedAccessHasNoEffect :
    2048 ≤ 0x800 ∧ ServesNext (.read 0x800 4) [] (idleWith (.read 0x800 4)) ∧
    ServesNext (.write 0x800 4 1) [] (idleWith (.write 0x800 4 1)) :=
  ⟨by decide, (witness_idle_serves _).1, (witness_idle_serves _).1⟩

/-- RegisterWriteStoresLowBits: the 16-bit and the last 8-bit register. -/
theorem witness_RegisterWriteStoresLowBits :
    (0x040, 16) ∈ Spec.storedWidths ∧ (0x070, 8) ∈ Spec.storedWidths ∧
    ServesNext (.write 0x040 4 0x12345678#32) [] (idleWith (.write 0x040 4 0x12345678#32)) ∧
    (idleWith (.write 0x040 4 0x12345678#32)).busy = false :=
  ⟨by decide, by decide, witness_idle_serves _⟩

/-- BufferWritesAreLittleEndian: the word that holds PAYLOAD[252..255], its last byte without storage, and the first
and last byte of the buffers. -/
theorem witness_BufferWritesAreLittleEndian :
    (ServesNext (.write 0x1FC 4 1) [] (idleWith (.write 0x1FC 4 1)) ∧ (idleWith (.write 0x1FC 4 1)).busy = false) ∧
    Spec.permitted 0x1FC 4 = true ∧ isStorage (0x1FC + 2) = true ∧ isStorage (0x1FC + 3) = false ∧
    Spec.permitted 0x080 1 = true ∧ Spec.permitted 0x60F 1 = true :=
  ⟨witness_idle_serves _, by decide⟩

/-- ReadOnlyWritesAreIgnored: the first and the last read-only register. -/
theorem witness_ReadOnlyWritesAreIgnored :
    (0x000 ∈ Spec.readOnlyOffsets ∧ ServesNext (.write 0x000 4 1) [] (idleWith (.write 0x000 4 1)) ∧
      (idleWith (.write 0x000 4 1)).busy = false) ∧
    (0x05C ∈ Spec.readOnlyOffsets ∧ ServesNext (.write 0x05C 4 1) [] (idleWith (.write 0x05C 4 1)) ∧
      (idleWith (.write 0x05C 4 1)).busy = false) :=
  ⟨⟨by decide, witness_idle_serves _⟩, ⟨by decide, witness_idle_serves _⟩⟩

/-- RegistersShowTheirFields: the last row of the map, and its register. -/
theorem witness_RegistersShowTheirFields :
    (⟨0x070, 8, 0⟩ : Spec.RegisterRow) ∈ Spec.registerRows State.reset ∧ Reg.ofOffset 0x070 = some .fChecksum := by
  decide

/-- IdleReadsReturnStoredValues: a row of the map, a register, a byte and a word, each served from an idle block. -/
theorem witness_IdleReadsReturnStoredValues :
    ((⟨0x018, 16, 0⟩ : Spec.RegisterRow) ∈ Spec.registerRows (idleWith (.read 0x018 4)) ∧
      ServesNext (.read 0x018 4) [] (idleWith (.read 0x018 4))) ∧
    (Reg.ofOffset 0x070 = some .fChecksum ∧ ServesNext (.read 0x070 4) [] (idleWith (.read 0x070 4))) ∧
    (Spec.permitted 0x080 1 = true ∧ ServesNext (.read 0x080 1) [] (idleWith (.read 0x080 1))) ∧
    (0x080 ≤ 0x60C ∧ Spec.permitted 0x60C 4 = true ∧ ServesNext (.read 0x60C 4) [] (idleWith (.read 0x60C 4))) :=
  ⟨⟨by decide, (witness_idle_serves _).1⟩, ⟨rfl, (witness_idle_serves _).1⟩,
    ⟨by decide, (witness_idle_serves _).1⟩, ⟨by decide, by decide, (witness_idle_serves _).1⟩⟩

/-- MixedWidthViewsAgree: the last word of TEXT. -/
theorem witness_MixedWidthViewsAgree : ∀ k < 4, isStorage (0x60C + k) = true := by decide

/-- BusyReadsOfWriteSetAreFree: DECODE in flight for the free and the current register and byte, and for the word that
holds PACKED[4..7], two of its bytes free; an illegal word in flight, RESULT free and F_CHECKSUM current. -/
theorem witness_BusyReadsOfWriteSetAreFree :
    ((⟨0x040, 16, 0⟩ : Spec.RegisterRow) ∈ Spec.registerRows (busyWith 0x6 (.read 0x040 4)) ∧
      ServesNext (.read 0x040 4) [] (busyWith 0x6 (.read 0x040 4)) ∧ (busyWith 0x6 (.read 0x040 4)).busy = true ∧
      Spec.unspecifiedAt (busyWith 0x6 (.read 0x040 4)) 0x040 = true ∧
      Spec.unspecifiedAt (busyWith 0x6 (.read 0x01C 4)) 0x01C = false) ∧
    (Spec.permitted 0x1FE 1 = true ∧ ServesNext (.read 0x1FE 1) [] (busyWith 0x6 (.read 0x1FE 1)) ∧
      Spec.unspecifiedAt (busyWith 0x6 (.read 0x1FE 1)) 0x1FE = true ∧
      Spec.unspecifiedAt (busyWith 0x6 (.read 0x1FF 1)) 0x1FF = false) ∧
    (Spec.permitted 0x084 4 = true ∧ ServesNext (.read 0x084 4) [] (busyWith 0x6 (.read 0x084 4)) ∧
      Spec.unspecifiedAt (busyWith 0x6 (.read 0x084 4)) (0x084 + 1) = true ∧
      Spec.unspecifiedAt (busyWith 0x6 (.read 0x084 4)) (0x084 + 2) = false) ∧
    (Spec.unspecifiedAt (busyWith 0xC (.read 0x018 4)) 0x018 = true ∧
      Spec.unspecifiedAt (busyWith 0xC (.read 0x018 4)) 0x070 = false) :=
  ⟨⟨by decide, ⟨rfl, .inr Nat.one_ne_zero⟩, rfl, by decide, by decide⟩,
    ⟨by decide, ⟨rfl, .inr Nat.one_ne_zero⟩, by decide, by decide⟩,
    ⟨by decide, ⟨rfl, .inr Nat.one_ne_zero⟩, by decide, by decide⟩, by decide, by decide⟩

/-- CommandInputsAreFrozenWhileBusy: an input that is not a reset. -/
theorem witness_CommandInputsAreFrozenWhileBusy :
    ServesNext .poll [] (busyWith 0x6 .poll) ∧ (busyWith 0x6 .poll).busy = true ∧ HostOp.poll ≠ HostOp.reset :=
  ⟨(witness_busy_serves _).1, rfl, by decide⟩

/-- PollWaitsForCompletion: while BUSY, and while idle. -/
theorem witness_PollWaitsForCompletion :
    ServesNext .poll [] (busyWith 0x6 .poll) ∧ ServesNext .poll [] (idleWith .poll) :=
  ⟨(witness_busy_serves _).1, (witness_idle_serves _).1⟩

/-- UnstoredBytesReadZero: its list is not empty. -/
theorem witness_UnstoredBytesReadZero : 0x1FF ∈ [0x086, 0x087, 0x1FF] := by decide

end Sys2Proof.Tests
end

section
/-! PROOFS. The state of the block (spec/10_state.md): how a served input and a command can change it, the invariant,
the write sets, and the register map. -/

namespace Sys2Proof.Machine

/-! ### The step and the input that it serves -/

/-- The step of an input whose turn it is serves it, taken off the queue. -/
theorem step_of_servesNext {op : HostOp} {rest : List HostOp} {s : State} (h : ServesNext op rest s) :
    step s = .next (serve op (s.afterTaking rest)) := by
  unfold step
  rw [nextAgent_of_servesNext h]
  rfl

/-- A step serves an input, performs the command in flight, or leaves the state alone. -/
theorem step_cases {s t : State} (h : step s = .next t) :
    performPending s = .next t ∨ (∃ op rest, t = serve op (s.afterTaking rest)) ∨ t = s := by
  unfold step at h
  split at h
  case h_1 => exact .inl h
  case h_2 op rest _ => exact .inr (.inl ⟨op, rest, (Host.Outcome.next.inj h).symm⟩)
  case h_3 => exact .inr (.inr (Host.Outcome.next.inj h).symm)

/-- The perform step completes the command that PENDING spells, or the illegal word. -/
theorem performPending_cases (s : State) :
    (∃ i, performPending s = exec i s) ∨ performPending s = .next (complete 9 0 s) := by
  unfold performPending
  cases decode s.pending with
  | ok i => exact .inl ⟨i, rfl⟩
  | error e => exact .inr rfl

/-- A read changes the response and the draw counter alone (20_memory.md R71). -/
theorem serveRead_cases (a n : Nat) (s : State) :
    ∃ r d, serveRead a n s = { s with response := r, draws := d } := by
  by_cases ha : a < 2048
  case neg => exact ⟨_, _, serveRead_unselected n s (Nat.not_lt.1 ha)⟩
  cases ht : target a n with
  | none => exact ⟨_, _, serveRead_error s ha ht⟩
  | some t =>
    cases hu : targetUnspecified s t with
    | false => exact ⟨_, _, serveRead_okay ha ht hu⟩
    | true => exact ⟨_, _, serveRead_draw ha ht hu⟩

/-- A write is not selected, gets ERROR, is dropped, or takes effect (20_memory.md R60 to R66,
70_reset_and_hazards.md R245). -/
theorem serveWrite_cases (a n : Nat) (v : Word) (s : State) :
    serveWrite a n v s = notSelected s ∨ serveWrite a n v s = respond errorResponse s ∨
    serveWrite a n v s = respond okayWrite (dropWrite s) ∨
    ∃ t, (s.busy = false ∨ writableWhileBusy t = true) ∧
      serveWrite a n v s = respond okayWrite (writeTarget t v s) := by
  by_cases ha : a < 2048
  case neg => exact .inl (serveWrite_unselected n v s (Nat.not_lt.1 ha))
  right
  cases ht : target a n with
  | none => exact .inl (serveWrite_error v s ha ht)
  | some t =>
    right
    by_cases h : s.busy = false ∨ writableWhileBusy t = true
    · exact .inr ⟨t, h, serveWrite_okay v ha ht h⟩
    · simp only [not_or, Bool.not_eq_false, Bool.not_eq_true] at h
      exact .inl (serveWrite_dropped v ha ht h.1 h.2)

/-- A round of POLL is a read of STATUS that may put itself back on the queue (30_encoding.md R97). -/
theorem servePoll_cases (s : State) :
    ∃ r d q, servePoll s = { s with response := r, draws := d, inputs := q } := by
  obtain ⟨r, d, h⟩ := serveRead_cases 0x010 4 s
  unfold servePoll
  rw [h]
  split_ifs
  · exact ⟨r, d, _, rfl⟩
  · exact ⟨r, d, _, rfl⟩

/-! ### What a command can change -/

/-- The payload that DECODE reads is as long as the frame's byte count says (42_hex_codec.md R147). -/
theorem decodeFrame_ok_length {s : State} {f : Frame} (h : decodeFrame s = .ok f) :
    f.payload.length = f.packed.p0.toNat := by
  rw [decodeFrame_eq] at h
  split at h
  · cases h
  split at h
  · cases h
  rename_i bc _
  split at h
  · cases h
  split at h
  · cases h
  split at h
  · cases h
  rename_i p hp
  split at h
  · cases h
  rename_i q hq
  split at h
  · cases h
  split at h
  · cases h
  cases h
  rw [((parsePacked_ok_iff s bc p).1 hp).1]
  exact ((parsePairs_ok_iff s 13 bc.toNat q).1 hq).1

/-- `t` is `s` but for the registers and bytes of the write set of `i` (10_state.md R57): what a command has done when
it completes. -/
structure WritesWithin (i : Instr) (s t : State) : Prop where
  /-- only the message state and the buffers can differ -/
  frame : t = { s with fields := t.fields, checksum := t.checksum, mem := t.mem }
  /-- the field registers are written together: F_CODECLASS stands for all of them -/
  fields : writesReg i .fCodeClass = false → t.fields = s.fields
  checksum : writesReg i .fChecksum = false → t.checksum = s.checksum
  bytes : ∀ a, writesByte s i a = false → loadByte t a = loadByte s a

theorem WritesWithin.refl (i : Instr) (s : State) : WritesWithin i s s :=
  ⟨rfl, fun _ => rfl, fun _ => rfl, fun _ _ => rfl⟩

theorem writesWithin_pack (s : State) (p : Packed) :
    WritesWithin .pack s (storeBytes (packedAddr 0) p.toList s) where
  frame := rfl
  fields _ := rfl
  checksum _ := rfl
  bytes a ha := by
    have hp : ¬(0x080 ≤ a ∧ a < 0x086) := by simpa [writesByte, isPackedByte] using ha
    rw [loadByte_storePacked, if_neg hp]

theorem writesWithin_encode {s : State} (h : payloadTooLarge s = false) (p : Packed) (c : Byte) :
    WritesWithin .encode s (writeFrame p (payloadBytes s) c s) where
  frame := rfl
  fields _ := rfl
  checksum hc := by simp [writesReg] at hc
  bytes a ha := by
    have hbc := (payloadTooLarge_eq_false s).1 h
    have hlen : (payloadBytes s).length = s.fields.byteCount.toNat := by
      rw [payloadBytes_length, payloadCount_eq s hbc]
    simp only [writesByte, Bool.or_eq_false_iff, textAddr, Config.maxFrameLen] at ha
    obtain ⟨hpacked, htext⟩ := ha
    replace hpacked := of_decide_eq_false hpacked
    replace htext := of_decide_eq_false htext
    rw [loadByte_writeFrame_cases _ _ _ _ (by omega), if_neg hpacked, if_neg (by omega)]

/-- The clear writes the message state, which is in the write sets of DECODE and CLEAR. -/
theorem writesWithin_clearMessage {i : Instr} (h : i = .decode ∨ i = .clear) (s : State) :
    WritesWithin i s (clearMessage s) where
  frame := by simp [clearMessage]
  fields hf := by rcases h with rfl | rfl <;> cases hf
  checksum hc := by rcases h with rfl | rfl <;> cases hc
  bytes a ha := by
    have hm : (isPackedByte a || isPayloadByte a) = false := by rcases h with rfl | rfl <;> exact ha
    rw [loadByte_clearMessage, hm]
    rfl

theorem writesWithin_decode {s : State} {f : Frame} (h : f.payload.length ≤ 255) :
    WritesWithin .decode s (writeMessage f (clearMessage s)) where
  frame := by simp [writeMessage, clearMessage]
  fields hf := by cases hf
  checksum hc := by cases hc
  bytes a ha := by
    simp only [writesByte, isPackedByte, isPayloadByte, Bool.or_eq_false_iff, decide_eq_false_iff_not] at ha
    rw [loadByte_writeMessage_cases _ _ h, if_neg ha.1, if_neg (by omega), if_neg ha.2]

/-- All that a command can do: it completes with 0 or a code of its row, having written within its write set
(60_exceptions.md R202, R205; 10_state.md R57). -/
theorem exec_writesWithin (i : Instr) (s : State) :
    ∃ e ∈ 0 :: Spec.raises i, ∃ r t, exec i s = .next (complete e r t) ∧ WritesWithin i s t := by
  have ok : (0 : BitVec 4) ∈ 0 :: Spec.raises i := List.mem_cons_self
  cases i with
  | nop => exact ⟨0, ok, _, s, exec_nop s, .refl _ s⟩
  | pack => exact ⟨0, ok, _, _, exec_pack s, writesWithin_pack s _⟩
  | unpack =>
    refine ⟨0, ok, _, _, exec_unpack s, rfl, fun h => ?_, fun _ => rfl, fun _ _ => rfl⟩
    cases h
  | cksum =>
    rw [exec_cksum]
    split_ifs
    · exact ⟨2, by simp [Spec.raises], _, s, rfl, .refl _ s⟩
    · refine ⟨0, ok, _, _, rfl, rfl, fun _ => rfl, fun h => ?_, fun _ _ => rfl⟩
      simp [writesReg] at h
  | validate b =>
    rw [exec_validate]
    split_ifs
    · exact ⟨2, by simp [Spec.raises], _, s, rfl, .refl _ s⟩
    · exact ⟨0, ok, _, s, rfl, .refl _ s⟩
    · exact ⟨0, ok, _, s, rfl, .refl _ s⟩
  | encode =>
    rw [exec_encode]
    split_ifs with h
    · exact ⟨2, by simp [Spec.raises], _, s, rfl, .refl _ s⟩
    · exact ⟨0, ok, _, _, rfl, writesWithin_encode (Bool.not_eq_true _ ▸ h) _ _⟩
  | decode =>
    rcases exec_decode_cases s with ⟨e, he, h⟩ | ⟨f, hf, h⟩
    · have hcode : e.code ∈ 0 :: Spec.raises .decode := by
        rcases decodeFrame_error he with rfl | rfl | rfl | rfl | rfl <;> decide
      exact ⟨_, hcode, _, _, h, writesWithin_clearMessage (.inl rfl) s⟩
    · have hlen : f.payload.length ≤ 255 := by
        rw [decodeFrame_ok_length hf]
        exact Nat.le_of_lt_succ f.packed.p0.isLt
      exact ⟨0, ok, _, _, h, writesWithin_decode hlen⟩
  | framelen =>
    rcases exec_framelen_cases s with ⟨-, h⟩ | ⟨-, -, h⟩ | ⟨-, _, -, h⟩
    · exact ⟨4, by simp [Spec.raises], _, s, h, .refl _ s⟩
    · exact ⟨8, by simp [Spec.raises], _, s, h, .refl _ s⟩
    · exact ⟨0, ok, _, s, h, .refl _ s⟩
  | clear => exact ⟨0, ok, _, _, exec_clear s, writesWithin_clearMessage (.inr rfl) s⟩
  | ismark c => exact ⟨0, ok, _, s, exec_ismark c s, .refl _ s⟩
  | h2b hi lo =>
    rw [exec_h2b]
    split
    · exact ⟨8, by simp [Spec.raises], _, s, rfl, .refl _ s⟩
    · exact ⟨0, ok, _, s, rfl, .refl _ s⟩
  | b2h b => exact ⟨0, ok, _, s, exec_b2h b s, .refl _ s⟩

/-! ### The invariant -/

/-- The codes of every row of 60_exceptions.md R202 are recorded ones. -/
theorem raises_subset_recordedCodes (i : Instr) : 0 :: Spec.raises i ⊆ recordedCodes := by
  cases i <;> simp [Spec.raises, recordedCodes]

/-- The invariant is about these seven fields alone. -/
theorem Inv.of_agrees {s t : State} (h : Inv s) (hmem : t.mem = s.mem) (herr : t.err = s.err)
    (hresult : t.result = s.result) (hbusy : t.busy = s.busy) (hpending : t.pending = s.pending)
    (hcmd : t.cmd = s.cmd) (hdone : t.done = s.done) : Inv t where
  memory := hmem ▸ h.memory
  recorded := herr ▸ h.recorded
  errorResult := by rw [herr, hresult]; exact h.errorResult
  pendingIsCmd := by rw [hbusy, hpending, hcmd]; exact h.pendingIsCmd
  notDone := by rw [hbusy, hdone]; exact h.notDone

/-- A completion with a recorded code establishes the invariant over any canonical memory: it ends BUSY, and leaves
RESULT at 0 with an error. -/
theorem inv_complete {s : State} {e : BitVec 4} (r : Half) (hm : s.mem.wf = true) (he : e ∈ recordedCodes) :
    Inv (complete e r s) where
  memory := hm
  recorded := he
  errorResult h := if_neg h
  pendingIsCmd h := by cases h
  notDone h := by cases h

theorem inv_reset : Inv State.reset :=
  ⟨rfl, by decide, fun _ => rfl, fun _ => rfl, fun _ => rfl⟩

/-- The performed command, or the illegal word, ends with the invariant. -/
theorem performPending_inv {s t : State} (h : Inv s) (hp : performPending s = .next t) : Inv t := by
  rcases performPending_cases s with ⟨i, hi⟩ | hi
  · obtain ⟨e, r, u, hu, -, -, -, hwf⟩ := exec_completes i s
    obtain ⟨e', he', r', u', hu', -⟩ := exec_writesWithin i s
    have herr : e = e' := congrArg State.err (Host.Outcome.next.inj (hu.symm.trans hu'))
    obtain rfl : complete e r u = t := Host.Outcome.next.inj (hu.symm.trans (hi.symm.trans hp))
    exact inv_complete r (hwf h.memory) (raises_subset_recordedCodes i (herr ▸ he'))
  · obtain rfl : complete 9 0 s = t := Host.Outcome.next.inj (hi.symm.trans hp)
    exact inv_complete 0 h.memory (by decide)

/-- A write of a register keeps the invariant: CMD sets PENDING and clears DONE, STATUS can only clear DONE. -/
theorem writeReg_inv {s : State} (h : Inv s) (r : Reg) (v : Word) : Inv (writeReg r v s) := by
  cases r with
  | cmd => exact ⟨h.memory, h.recorded, h.errorResult, fun _ => rfl, fun _ => rfl⟩
  | status =>
    refine ⟨h.memory, h.recorded, h.errorResult, h.pendingIsCmd, fun hb => ?_⟩
    have hd : s.done = false := h.notDone hb
    simp [writeReg, hd]
  | _ => exact h.of_agrees rfl rfl rfl rfl rfl rfl rfl

theorem writeTarget_inv {s : State} (h : Inv s) (t : Target) (v : Word) : Inv (writeTarget t v s) := by
  cases t with
  | reg r => exact writeReg_inv h r v
  | byte a =>
    exact ⟨Memory.wf_write _ _ _ h.memory, h.recorded, h.errorResult, h.pendingIsCmd, h.notDone⟩
  | word a =>
    exact ⟨Memory.wf_writeBytes _ _ _ h.memory, h.recorded, h.errorResult, h.pendingIsCmd, h.notDone⟩

/-- Serving any input keeps the invariant. -/
theorem serve_inv {s : State} (h : Inv s) (op : HostOp) : Inv (serve op s) := by
  cases op with
  | read a n =>
    obtain ⟨r, d, hr⟩ := serveRead_cases a n s
    rw [serve, hr]
    exact h.of_agrees rfl rfl rfl rfl rfl rfl rfl
  | write a n v =>
    rw [serve]
    rcases serveWrite_cases a n v s with hw | hw | hw | ⟨t, -, hw⟩ <;> rw [hw]
    · exact h.of_agrees rfl rfl rfl rfl rfl rfl rfl
    · exact h.of_agrees rfl rfl rfl rfl rfl rfl rfl
    · exact h.of_agrees rfl rfl rfl rfl rfl rfl rfl
    · exact (writeTarget_inv h t v).of_agrees rfl rfl rfl rfl rfl rfl rfl
  | poll =>
    obtain ⟨r, d, q, hr⟩ := servePoll_cases s
    rw [serve, hr]
    exact h.of_agrees rfl rfl rfl rfl rfl rfl rfl
  | reset => exact inv_reset.of_agrees rfl rfl rfl rfl rfl rfl rfl

/-- Settles O12: the perform step establishes the invariant anew, and serving an input keeps it. -/
theorem stepKeepsInv : Obligations.StepKeepsInv := by
  intro s t h hstep
  rcases step_cases hstep with hp | ⟨op, rest, rfl⟩ | rfl
  · exact performPending_inv h hp
  · have htaken : Inv (s.afterTaking rest) := h.of_agrees rfl rfl rfl rfl rfl rfl rfl
    exact serve_inv htaken op
  · exact h

/-! ### The register map by register -/

/-- The offset column of the register map (10_state.md R22), the inverse of `Reg.ofOffset`. -/
def Reg.offset : Reg → Nat
  | .id => 0x000
  | .param => 0x004
  | .frameLim => 0x008
  | .ctrl => 0x00C
  | .status => 0x010
  | .cmd => 0x014
  | .result => 0x018
  | .declLen => 0x01C
  | .fByteCount => 0x040
  | .fVersion => 0x044
  | .fContext => 0x048
  | .fLastBlock => 0x04C
  | .fBlockSeq => 0x050
  | .fCodeClass => 0x054
  | .fCodeDetail => 0x058
  | .fCodeTag => 0x05C
  | .fMsgId => 0x060
  | .fObsFlag => 0x064
  | .fObsIdx => 0x068
  | .fResIdx => 0x06C
  | .fChecksum => 0x070

theorem Reg.ofOffset_offset (r : Reg) : Reg.ofOffset r.offset = some r := by
  cases r <;> rfl

/-- A register has one offset. -/
theorem Reg.ofOffset_eq_some_iff {a : Nat} {r : Reg} : Reg.ofOffset a = some r ↔ a = r.offset := by
  constructor
  · intro h
    unfold Reg.ofOffset at h
    split at h <;> cases h <;> rfl
  · rintro rfl
    exact r.ofOffset_offset

/-! ### The write sets -/

/-- A command leaves a register outside its write set, STATUS and RESULT as it was; F_CODETAG follows F_CODECLASS. -/
theorem readReg_complete_of_writesWithin {i : Instr} {s t : State} (h : WritesWithin i s t) (e : BitVec 4) (x : Half)
    {r : Reg} (hstatus : r ≠ .status) (hresult : r ≠ .result) (hw : writesReg i r = false)
    (htag : r = .fCodeTag → writesReg i .fCodeClass = false) : readReg (complete e x t) r = readReg s r := by
  have hfields (hr : writesReg i r = writesReg i .fCodeClass ∨ r = .fCodeTag) : t.fields = s.fields :=
    h.fields (hr.elim (fun hr => hr ▸ hw) htag)
  cases r with
  | status => exact absurd rfl hstatus
  | result => exact absurd rfl hresult
  | id | param | frameLim => rfl
  | ctrl | cmd | declLen => rw [h.frame]; rfl
  | fChecksum => simp [readReg, h.checksum hw]
  | fCodeTag => simp [readReg, hfields (.inr rfl)]
  | _ => simp [readReg, hfields (.inl (by cases i <;> rfl))]

/-- Settles O17: a command completes having written within its write set, and the write sets by offset are the
machine's. -/
theorem commandsWriteOnlyTheirWriteSet : Obligations.CommandsWriteOnlyTheirWriteSet := by
  intro i s t ht
  obtain ⟨e, -, x, u, hu, hw⟩ := exec_writesWithin i s
  obtain rfl : complete e x u = t := Host.Outcome.next.inj (hu.symm.trans ht)
  refine ⟨fun a ha => ?_, fun a r hr hstatus hresult ha htag => ?_, ?_⟩
  · rw [loadByte_complete]
    by_cases hbuf : 0x080 ≤ a
    · exact hw.bytes a (inWriteSet_byte s i hbuf ▸ ha)
    · have hs : isStorage a = false := by
        rw [← Bool.not_eq_true, isStorage_iff]
        omega
      rw [loadByte_of_not_storage _ hs, loadByte_of_not_storage _ hs]
  · obtain rfl := Reg.ofOffset_eq_some_iff.1 hr
    have hout : writesReg i r = false := inWriteSet_reg s i hr ▸ ha
    refine readReg_complete_of_writesWithin hw e x ?_ ?_ hout ?_
    · rintro rfl
      exact hstatus rfl
    · rintro rfl
      exact hresult rfl
    · rintro rfl
      exact inWriteSet_reg s i (Reg.ofOffset_offset .fCodeClass) ▸ htag rfl
  · rw [hw.frame]
    exact ⟨rfl, rfl, rfl, rfl, rfl, rfl, rfl⟩

/-! ### What each register shows -/

/-- The registers in the order of the map (10_state.md R22). -/
def Reg.all : List Reg :=
  [.id, .param, .frameLim, .ctrl, .status, .cmd, .result, .declLen, .fByteCount, .fVersion, .fContext, .fLastBlock,
    .fBlockSeq, .fCodeClass, .fCodeDetail, .fCodeTag, .fMsgId, .fObsFlag, .fObsIdx, .fResIdx, .fChecksum]

theorem Reg.mem_all (r : Reg) : r ∈ Reg.all := by
  cases r <;> decide

/-- A masked byte is the byte modulo two to the width (40_packer.md R112). -/
theorem maskTo_toNat {w : Nat} (hw : w ≤ 8) (v : Byte) : (maskTo w v).toNat = v.toNat % 2 ^ w := by
  have h8 : 2 ^ w ≤ 2 ^ 8 := Nat.pow_le_pow_right (by decide) hw
  have hpos : 0 < 2 ^ w := Nat.two_pow_pos w
  rw [maskTo, BitVec.toNat_and, BitVec.toNat_ofNat, Nat.mod_eq_of_lt (by omega), Nat.and_two_pow_sub_one_eq_mod]

theorem codeTag_eq (f : Fields) : codeTag f = decide (f.codeClass.toNat % 8 ≠ 0) := by
  rw [codeTag, maskTo_toNat (by decide)]
  rfl

theorem ctrlWord_toNat (s : State) : (ctrlWord s).toNat = s.ie.toNat := by
  simp only [ctrlWord, append_toNat, BitVec.toNat_ofBool, BitVec.toNat_ofNat]
  omega

/-- Settles O59. -/
theorem statusWordHasStatedLayout : Obligations.StatusWordHasStatedLayout := by
  intro s
  simp only [statusWord, append_toNat, BitVec.toNat_ofBool, BitVec.toNat_ofNat]
  omega

/-- Each register shows its own field, zero-extended, as the map's row says. -/
theorem registerRows_eq (s : State) :
    Spec.registerRows s = Reg.all.map (fun r => ⟨r.offset, r.width, (readReg s r).toNat⟩) := by
  have h16 (x : Half) : (x.setWidth 32).toNat = x.toNat := BitVec.toNat_setWidth_of_le (by decide)
  have h8 (x : Byte) : (x.setWidth 32).toNat = x.toNat := BitVec.toNat_setWidth_of_le (by decide)
  have htag : ((BitVec.ofBool (codeTag s.fields)).setWidth 32).toNat =
      if s.fields.codeClass.toNat % 8 = 0 then 0 else 1 := by
    rw [codeTag_eq]
    split_ifs with h <;> simp [h]
  simp only [Spec.registerRows, Reg.all, List.map, Reg.offset, Reg.width, readReg, h16, h8, htag, ctrlWord_toNat,
    statusWordHasStatedLayout s]
  rfl

/-- What a register shows fits its width: the reserved bits read 0 (10_state.md R21). -/
theorem readReg_lt (s : State) (r : Reg) : (readReg s r).toNat < 2 ^ r.width := by
  have h16 (x : Half) : (x.setWidth 32).toNat < 2 ^ 16 := by
    rw [BitVec.toNat_setWidth_of_le (by decide)]
    exact x.isLt
  have h8 (x : Byte) : (x.setWidth 32).toNat < 2 ^ 8 := by
    rw [BitVec.toNat_setWidth_of_le (by decide)]
    exact x.isLt
  cases r with
  | id | frameLim | cmd => exact BitVec.isLt _
  | param => rw [readReg]; decide
  | ctrl => rw [readReg, ctrlWord_toNat]; exact Bool.toNat_lt _
  | status =>
    rw [readReg, statusWordHasStatedLayout s, Reg.width]
    have := s.busy.toNat_lt
    have := s.done.toNat_lt
    have := s.werr.toNat_lt
    have := s.err.isLt
    omega
  | fCodeTag => rw [readReg]; cases codeTag s.fields <;> decide
  | result | declLen | fByteCount => exact h16 _
  | _ => exact h8 _

/-- Settles O58: the map's rows are the registers, each with what it shows. -/
theorem registersShowTheirFields : Obligations.RegistersShowTheirFields := by
  intro s
  rw [registerRows_eq s]
  refine ⟨fun e he => ?_, fun a r hr => ?_⟩
  · obtain ⟨r, -, rfl⟩ := List.mem_map.1 he
    exact ⟨readReg_lt s r, r, r.ofOffset_offset, rfl⟩
  · exact ⟨_, List.mem_map_of_mem r.mem_all, (Reg.ofOffset_eq_some_iff.1 hr).symm⟩

/-- Settles O26. -/
theorem codetagFollowsCodeClass : Obligations.CodetagFollowsCodeClass := by
  refine ⟨rfl, fun s => ?_, fun _ _ => rfl, rfl⟩
  rw [readReg, codeTag_eq, Config.requestClass]
  split_ifs with h <;> simp [h]

/-! ### Idle accesses -/

/-- Taking an input off the queue changes nothing that a read shows. -/
theorem readTarget_afterTaking (s : State) (rest : List HostOp) (t : Target) :
    readTarget (s.afterTaking rest) t = readTarget s t := by
  cases t with
  | reg r => cases r <;> rfl
  | byte a => rfl
  | word a => rfl

/-- The step of a permitted read while idle responds with what the target holds. -/
theorem step_read_idle {s : State} {a n : Nat} {rest : List HostOp} {t : Target}
    (h : ServesNext (.read a n) rest s) (hb : s.busy = false) (ht : target a n = some t ∧ a < 2048) :
    step s = .next { s.afterTaking rest with response := some ⟨.okay, readTarget s t⟩ } := by
  have hu : targetUnspecified (s.afterTaking rest) t = false := targetUnspecified_idle t hb
  rw [step_of_servesNext h, serve, serveRead_okay ht.2 ht.1 hu, readTarget_afterTaking]
  rfl

/-- The step of a permitted write while idle writes the target. -/
theorem step_write_idle {s : State} {a n : Nat} {v : Word} {rest : List HostOp} {t : Target}
    (h : ServesNext (.write a n v) rest s) (hb : s.busy = false) (ht : target a n = some t ∧ a < 2048) :
    step s = .next (respond okayWrite (writeTarget t v (s.afterTaking rest))) := by
  have hidle : (s.afterTaking rest).busy = false ∨ writableWhileBusy t = true := .inl hb
  rw [step_of_servesNext h, serve, serveWrite_okay v ht.2 ht.1 hidle]

/-- A word read of a buffer is the sum of its bytes, the lowest first (20_memory.md R67). -/
theorem loadWord_toNat (s : State) (a : Nat) :
    (loadWord s a).toNat = (loadByte s a).toNat + (loadByte s (a + 1)).toNat * 256 +
      (loadByte s (a + 2)).toNat * 256 ^ 2 + (loadByte s (a + 3)).toNat * 256 ^ 3 := by
  simp only [loadWord, wordOfBytes, append_toNat]
  omega

/-- Settles O52: an idle read shows the register, the byte, or the word that its offset selects. -/
theorem idleReadsReturnStoredValues : Obligations.IdleReadsReturnStoredValues := by
  intro s rest hb
  have readsReg (a : Nat) (r : Reg) (hr : Reg.ofOffset a = some r) (h : ServesNext (.read a 4) rest s) :
      step s = .next { s.afterTaking rest with response := some ⟨.okay, readReg s r⟩ } :=
    step_read_idle h hb (target_of_reg hr)
  refine ⟨fun e he h => ?_, readsReg, fun a hp h => ?_, fun a ha hp h => ?_⟩
  · obtain ⟨-, r, hr, hvalue⟩ := (registersShowTheirFields s).1 e he
    rw [readsReg e.offset r hr h, ← hvalue, BitVec.ofNat_toNat, BitVec.setWidth_eq]
  · exact step_read_idle h hb (target_byte hp)
  · exact ⟨loadWord s a, step_read_idle h hb (target_word ha hp), loadWord_toNat s a⟩

/-- Settles O44. -/
theorem cmdWriteAcceptsCommand : Obligations.CmdWriteAcceptsCommand := by
  intro s rest w h hb
  exact step_write_idle h hb (target_of_reg (Reg.ofOffset_offset .cmd))

/-- Settles O46. -/
theorem idleCtrlAndStatusWrites : Obligations.IdleCtrlAndStatusWrites := by
  intro s v rest hb
  exact ⟨fun h => step_write_idle h hb (target_of_reg (Reg.ofOffset_offset .ctrl)),
    fun h => step_write_idle h hb (target_of_reg (Reg.ofOffset_offset .status))⟩

/-- The registers that ignore a host write (10_state.md R21). -/
def Reg.readOnly (r : Reg) : Bool := decide (r ∈ [Reg.id, .param, .frameLim, .result, .fCodeTag])

theorem readOnlyOffsets_eq : Spec.readOnlyOffsets = (Reg.all.filter Reg.readOnly).map Reg.offset := rfl

theorem writeReg_readOnly {r : Reg} (h : r.readOnly = true) (v : Word) (s : State) : writeReg r v s = s := by
  simp only [Reg.readOnly, List.mem_cons, List.not_mem_nil, or_false, decide_eq_true_eq] at h
  rcases h with rfl | rfl | rfl | rfl | rfl <;> rfl

/-- Settles O50. -/
theorem readOnlyWritesAreIgnored : Obligations.ReadOnlyWritesAreIgnored := by
  intro s v rest a ha h hb
  rw [readOnlyOffsets_eq] at ha
  obtain ⟨r, hr, rfl⟩ := List.mem_map.1 ha
  have hro : r.readOnly = true := (List.mem_filter.1 hr).2
  rw [step_write_idle h hb (target_of_reg r.ofOffset_offset), writeTarget, writeReg_readOnly hro]
  rfl

/-- The registers that hold what a host writes: DECL_LEN and the RW field registers (10_state.md R34, R35). -/
def Reg.stored : Reg → Bool
  | .id | .param | .frameLim | .ctrl | .status | .cmd | .result | .fCodeTag => false
  | _ => true

theorem storedWidths_eq : Spec.storedWidths = (Reg.all.filter Reg.stored).map (fun r => (r.offset, r.width)) := rfl

/-- A stored register keeps the low bits of the word, unmasked to the wire width (10_state.md R35). -/
theorem readReg_writeReg_self {r : Reg} (h : r.stored = true) (v : Word) (s : State) :
    (readReg (writeReg r v s) r).toNat = v.toNat % 2 ^ r.width := by
  have h16 : ((v.setWidth 16).setWidth 32).toNat = v.toNat % 2 ^ 16 := by
    rw [BitVec.toNat_setWidth_of_le (by decide), BitVec.toNat_setWidth]
  have h8 : ((v.setWidth 8).setWidth 32).toNat = v.toNat % 2 ^ 8 := by
    rw [BitVec.toNat_setWidth_of_le (by decide), BitVec.toNat_setWidth]
  cases r with
  | id | param | frameLim | ctrl | status | cmd | result | fCodeTag => cases h
  | declLen | fByteCount => exact h16
  | _ => exact h8

/-- A write of a stored register changes no other register but the computed F_CODETAG: each register shows a part of the
state that no other stored register holds. -/
theorem readReg_writeReg_of_ne {r r' : Reg} (h : r.stored = true) (hne : r' ≠ r) (htag : r' ≠ .fCodeTag) (v : Word)
    (s : State) : readReg (writeReg r v s) r' = readReg s r' := by
  cases r <;> cases h <;> cases r' <;> try contradiction
  all_goals rfl

/-- A write of a stored register changes nothing but the stored registers. -/
theorem writeReg_stored_frame {r : Reg} (h : r.stored = true) (v : Word) (s : State) :
    writeReg r v s = { s with
      fields := (writeReg r v s).fields, checksum := (writeReg r v s).checksum,
      declLen := (writeReg r v s).declLen } := by
  cases r <;> cases h <;> rfl

/-- The response is no register. -/
theorem readReg_respond (b : BusResponse) (s : State) (r : Reg) : readReg (respond b s) r = readReg s r := by
  cases r <;> rfl

/-- Settles O49: the write stores into its register, and everything else is as the step found it. -/
theorem registerWriteStoresLowBits : Obligations.RegisterWriteStoresLowBits := by
  intro s v rest e he h hb
  rw [storedWidths_eq] at he
  obtain ⟨r, hr, rfl⟩ := List.mem_map.1 he
  have hst : r.stored = true := (List.mem_filter.1 hr).2
  have hframe := writeReg_stored_frame hst v (s.afterTaking rest)
  refine ⟨_, r, step_write_idle h hb (target_of_reg r.ofOffset_offset), r.ofOffset_offset, ?_,
    fun r' hne htag => ?_, ?_⟩
  · rw [readReg_respond]
    exact readReg_writeReg_self hst v _
  · rw [readReg_respond]
    exact (readReg_writeReg_of_ne hst hne htag v _).trans (readTarget_afterTaking s rest (.reg r'))
  · exact congrArg (respond okayWrite) hframe

/-- Settles O60: the three bytes have no storage. -/
theorem unstoredBytesReadZero : Obligations.UnstoredBytesReadZero := by
  intro s b a ha
  have hs : isStorage a = false := (by decide : ∀ x ∈ [0x086, 0x087, 0x1FF], isStorage x = false) a ha
  refine ⟨loadByte_of_not_storage s hs, ?_⟩
  rw [storeByte, Memory.write_of_not_storage _ _ hs]

end Sys2Proof.Machine
end

section
/-! PROOFS. The host's memory interface (spec/20_memory.md): which agent a step serves, the accesses that change
nothing, and the buffers as bytes and words. -/

namespace Sys2Proof.Machine

/-! ### Whose turn it is -/

/-- The step of the engine performs the word in PENDING. -/
theorem step_of_performsNext {s : State} (h : PerformsNext s) : step s = performPending s := by
  unfold step
  rw [nextAgent_of_performsNext h]

theorem performPending_of_decode {s : State} {i : Instr} (h : decode s.pending = .ok i) :
    performPending s = exec i s := by
  unfold performPending
  rw [h]

/-- Settles O6. -/
theorem stepPerformsPendingCommand : Obligations.StepPerformsPendingCommand := by
  intro s i hnext hdecode
  rw [step_of_performsNext hnext, performPending_of_decode hdecode]

/-- Settles O8. -/
theorem stepServesOldestInput : Obligations.StepServesOldestInput := by
  intro s op rest h
  exact step_of_servesNext h

/-! ### Accesses that change nothing -/

/-- Settles O47: what is not permitted selects no target, and is answered with ERROR whether idle or BUSY. -/
theorem errorAccessChangesNothing : Obligations.ErrorAccessChangesNothing := by
  intro s a n rest ha hp
  have hnone : target a n = none := target_eq_none ha hp
  refine ⟨fun h => ?_, fun v h => ?_⟩
  · rw [step_of_servesNext h, serve, serveRead_error _ ha hnone]
    rfl
  · rw [step_of_servesNext h, serve, serveWrite_error v _ ha hnone]
    rfl

/-- Settles O48. -/
theorem unselectedAccessHasNoEffect : Obligations.UnselectedAccessHasNoEffect := by
  intro s a n rest ha
  refine ⟨fun h => ?_, fun v h => ?_⟩
  · rw [step_of_servesNext h, serve, serveRead_unselected n _ ha]
    rfl
  · rw [step_of_servesNext h, serve, serveWrite_unselected n v _ ha]
    rfl

/-- Settles O54. -/
theorem readsHaveNoSideEffect : Obligations.ReadsHaveNoSideEffect := by
  intro s a n rest h
  obtain ⟨r, d, hread⟩ := serveRead_cases a n (s.afterTaking rest)
  exact ⟨_, (step_of_servesNext h).trans (congrArg _ hread), rfl⟩

/-! ### The command in flight -/

/-- `t` is `s` but for the fields that the host can change while a command is in flight: CTRL.IE, DONE and WERR, and the
model's response, queue and draw counter (20_memory.md R81, 70_reset_and_hazards.md R245). -/
def SameCommand (s t : State) : Prop :=
  t = { s with
        ie := t.ie, done := t.done, werr := t.werr, response := t.response, inputs := t.inputs, draws := t.draws }

/-- A write of CTRL or STATUS, the two targets writable while BUSY, leaves the command alone. -/
theorem sameCommand_writeTarget {t : Target} (h : writableWhileBusy t = true) (v : Word) (s : State) :
    SameCommand s (writeTarget t v s) := by
  have ht : t = .reg .ctrl ∨ t = .reg .status := by simpa [writableWhileBusy] using h
  rcases ht with rfl | rfl <;> rfl

/-- A write while BUSY is refused, dropped, or goes to CTRL or STATUS. -/
theorem sameCommand_serveWrite {s : State} (hb : s.busy = true) (a n : Nat) (v : Word) :
    SameCommand s (serveWrite a n v s) := by
  rcases serveWrite_cases a n v s with hw | hw | hw | ⟨t, ht, hw⟩
  · rw [hw]; rfl
  · rw [hw]; rfl
  · rw [hw]; rfl
  · have hwritable : writableWhileBusy t = true := ht.resolve_left (by simp [hb])
    rw [hw]
    exact congrArg (respond okayWrite) (sameCommand_writeTarget hwritable v s)

/-- Whatever is served while BUSY, but for a reset, leaves the command alone. -/
theorem sameCommand_serve {s : State} (hb : s.busy = true) {op : HostOp} (hop : op ≠ .reset) :
    SameCommand s (serve op s) := by
  cases op with
  | read a n =>
    obtain ⟨r, d, hread⟩ := serveRead_cases a n s
    rw [serve, hread]
    rfl
  | write a n v => exact sameCommand_serveWrite hb a n v
  | poll =>
    obtain ⟨r, d, q, hpoll⟩ := servePoll_cases s
    rw [serve, hpoll]
    rfl
  | reset => exact absurd rfl hop

/-- Settles O56. -/
theorem commandInputsAreFrozenWhileBusy : Obligations.CommandInputsAreFrozenWhileBusy := by
  intro s op rest hb h hop
  have hbusy : (s.afterTaking rest).busy = true := hb
  exact ⟨_, step_of_servesNext h, sameCommand_serve hbusy hop⟩

/-! ### The buffers as bytes and words -/

theorem bytesOfWord_take_length (v : Word) {n : Nat} (hn : n ≤ 4) : ((bytesOfWord v).take n).length = n := by
  simp [bytesOfWord, hn]

/-- The bytes of a word are its base-256 digits, the lowest first (20_memory.md R67). -/
theorem bytesOfWord_getD_toNat (v : Word) {k : Nat} (hk : k < 4) :
    ((bytesOfWord v).getD k 0).toNat = v.toNat / 256 ^ k % 256 := by
  interval_cases k <;> simp [bytesOfWord, BitVec.extractLsb'_toNat, Nat.shiftRight_eq_div_pow]

/-- An offset that a write of the low `n` bytes of a word covers holds its digit of the word, if it has storage. -/
theorem loadByte_storeBytes_take (s : State) (a : Nat) (v : Word) {n k : Nat} (hn : n ≤ 4) (hk : k < n)
    (hs : isStorage (a + k) = true) :
    (loadByte (storeBytes a ((bytesOfWord v).take n) s) (a + k)).toNat = v.toNat / 256 ^ k % 256 := by
  have hlen := bytesOfWord_take_length v hn
  rw [loadByte_storeBytes, if_pos ⟨hs, by omega, by omega⟩, ← bytesOfWord_getD_toNat v (by omega)]
  simp [List.getD_eq_getElem?_getD, hk]

/-- A permitted access to a buffer selects a byte or a word, and a write of it stores as many low bytes of the word as
the access is wide (20_memory.md R65, R67). -/
theorem target_buffer {a n : Nat} (ha : 0x080 ≤ a) (ha' : a < 2048) (hp : Spec.permitted a n = true) :
    n ≤ 4 ∧ ∃ t, target a n = some t ∧
      ∀ v s, writeTarget t v s = storeBytes a ((bytesOfWord v).take n) s := by
  obtain ⟨t, ht⟩ : ∃ t, target a n = some t := Option.isSome_iff_exists.1 ((target_isSome n ha').trans hp)
  rcases target_size ht with rfl | rfl
  · refine ⟨by decide, .byte a, (target_byte hp).1, fun v s => ?_⟩
    rw [writeTarget, BitVec.setWidth_eq_extractLsb' (by decide)]
    rfl
  · exact ⟨le_refl 4, .word a, (target_word ha hp).1, fun v s => rfl⟩

/-- Settles O51: the write is one of the low bytes of the word at rising offsets. -/
theorem bufferWritesAreLittleEndian : Obligations.BufferWritesAreLittleEndian := by
  intro s a n v rest h hb ha ha' hp
  obtain ⟨hn, t, ht, hwrite⟩ := target_buffer ha ha' hp
  have hlen := bytesOfWord_take_length v hn
  have hstep := step_write_idle h hb ⟨ht, ha'⟩
  rw [hwrite] at hstep
  refine ⟨_, hstep, rfl, fun k hk hs => ?_, fun k _ hs => loadByte_of_not_storage _ hs, fun x hx => ?_⟩
  · exact loadByte_storeBytes_take (s.afterTaking rest) a v hn hk hs
  · calc loadByte (storeBytes a ((bytesOfWord v).take n) (s.afterTaking rest)) x
      _ = loadByte (s.afterTaking rest) x := by rw [loadByte_storeBytes, if_neg (by omega)]
      _ = loadByte s x := rfl

/-- Settles O53: byte writes to other offsets leave a byte as it was written, and a word write stores the digits of the
word. -/
theorem mixedWidthViewsAgree : Obligations.MixedWidthViewsAgree := by
  refine ⟨fun s a b hs => ?_, fun s a v k hk hs => ?_⟩
  · have h0 : isStorage a = true := hs 0 (by decide)
    have h1 : isStorage (a + 1) = true := hs 1 (by decide)
    have h2 : isStorage (a + 2) = true := hs 2 (by decide)
    have h3 : isStorage (a + 3) = true := hs 3 (by decide)
    simp [loadWord_toNat, loadByte_storeByte_of_ne, loadByte_storeByte_self, h0, h1, h2, h3]
  · exact loadByte_storeBytes_take s a v (le_refl 4) hk hs

end Sys2Proof.Machine
end

section
/-! PROOFS. The command words (spec/30_encoding.md): the decoder and the encoder, the legal words, and the opcode
map. -/

namespace Sys2Proof

/-! ### The fields of a word -/

/-- A word is the sum of its four fields at their places (30_encoding.md R90). -/
theorem word_toNat (w : Word) :
    w.toNat = (opcOf w).toNat + (arg0Of w).toNat * 2 ^ 8 + (arg1Of w).toNat * 2 ^ 16 + (rsvOf w).toNat * 2 ^ 24 := by
  rw [opcOf_toNat, arg0Of_toNat, arg1Of_toNat, rsvOf_toNat]
  omega

/-- Words with the same four fields are the same. -/
theorem word_eq_iff {v w : Word} :
    v = w ↔ opcOf v = opcOf w ∧ arg0Of v = arg0Of w ∧ arg1Of v = arg1Of w ∧ rsvOf v = rsvOf w := by
  constructor
  · rintro rfl
    exact ⟨rfl, rfl, rfl, rfl⟩
  · rintro ⟨hopc, harg0, harg1, hrsv⟩
    apply BitVec.eq_of_toNat_eq
    rw [word_toNat v, word_toNat w, hopc, harg0, harg1, hrsv]

theorem opcOf_and (v w : Word) : opcOf (v &&& w) = opcOf v &&& opcOf w := BitVec.extractLsb'_and

theorem arg0Of_and (v w : Word) : arg0Of (v &&& w) = arg0Of v &&& arg0Of w := BitVec.extractLsb'_and

theorem arg1Of_and (v w : Word) : arg1Of (v &&& w) = arg1Of v &&& arg1Of w := BitVec.extractLsb'_and

theorem rsvOf_and (v w : Word) : rsvOf (v &&& w) = rsvOf v &&& rsvOf w := BitVec.extractLsb'_and

/-! ### The fields of a command -/

/-- The OPC column of the opcode table (30_encoding.md R93). -/
@[simp] def Instr.opcode : Instr → Nat
  | .nop => 0x00
  | .pack => 0x01
  | .unpack => 0x02
  | .cksum => 0x03
  | .validate _ => 0x04
  | .encode => 0x05
  | .decode => 0x06
  | .framelen => 0x07
  | .clear => 0x08
  | .ismark _ => 0x09
  | .h2b _ _ => 0x0A
  | .b2h _ => 0x0B

/-- What the command's word holds in ARG0: the first operand, or 0 (30_encoding.md R92, R93). -/
@[simp] def Instr.arg0 : Instr → Byte
  | .validate b | .ismark b | .h2b b _ | .b2h b => b
  | _ => 0

/-- What the command's word holds in ARG1: the second operand, or 0 (30_encoding.md R92, R93). -/
@[simp] def Instr.arg1 : Instr → Byte
  | .h2b _ lo => lo
  | _ => 0

/-- The word holds the command's opcode and operands, and 0 in every other bit. -/
structure HasFields (w : Word) (i : Instr) : Prop where
  opc : (opcOf w).toNat = i.opcode
  arg0 : arg0Of w = i.arg0
  arg1 : arg1Of w = i.arg1
  rsv : rsvOf w = 0

theorem Instr.opcode_lt (i : Instr) : i.opcode < 12 := by
  cases i <;> simp

theorem encode_toNat (i : Instr) :
    (encode i).toNat = i.opcode + i.arg0.toNat * 2 ^ 8 + i.arg1.toNat * 2 ^ 16 := by
  cases i with
  | validate b => simpa using encode_validate_toNat b
  | ismark c => simpa using encode_ismark_toNat c
  | h2b hi lo => simpa using encode_h2b_toNat hi lo
  | b2h b => simpa using encode_b2h_toNat b
  | _ => rfl

theorem hasFields_encode (i : Instr) : HasFields (encode i) i := by
  have h := encode_toNat i
  have hopc := i.opcode_lt
  have harg0 := i.arg0.isLt
  have harg1 := i.arg1.isLt
  refine ⟨?_, BitVec.eq_of_toNat_eq ?_, BitVec.eq_of_toNat_eq ?_, BitVec.eq_of_toNat_eq ?_⟩
  · rw [opcOf_toNat]; omega
  · rw [arg0Of_toNat]; omega
  · rw [arg1Of_toNat]; omega
  · exact (rsvOf_toNat _).trans (show _ = 0 by omega)

/-- The encoder's word is the one word with the command's fields (30_encoding.md R98). -/
theorem hasFields_iff {w : Word} {i : Instr} : HasFields w i ↔ encode i = w := by
  constructor
  · intro h
    have he := hasFields_encode i
    have hopc : opcOf (encode i) = opcOf w := BitVec.eq_of_toNat_eq (he.opc.trans h.opc.symm)
    exact word_eq_iff.2
      ⟨hopc, he.arg0.trans h.arg0.symm, he.arg1.trans h.arg1.symm, he.rsv.trans h.rsv.symm⟩
  · rintro rfl
    exact hasFields_encode i

/-! ### The decoder -/

theorem decodeNoOperand_eq_ok_iff {w : Word} {i j : Instr} :
    decodeNoOperand w i = .ok j ↔ arg0Of w = 0 ∧ arg1Of w = 0 ∧ i = j := by
  unfold decodeNoOperand
  split_ifs with h
  · simp [h]
  · exact iff_of_false nofun fun ⟨h0, h1, _⟩ => h ⟨h0, h1⟩

theorem decodeArg0_eq_ok_iff {w : Word} {i j : Instr} :
    decodeArg0 w i = .ok j ↔ arg1Of w = 0 ∧ i = j := by
  unfold decodeArg0
  split_ifs with h
  · simp [h]
  · exact iff_of_false nofun fun ⟨h1, _⟩ => h h1

/-- A word that decodes holds its command's fields: each branch of the decoder checks OPC, RSV and the fields that its
command does not use. -/
theorem hasFields_of_decode {w : Word} {i : Instr} (h : decode w = .ok i) : HasFields w i := by
  unfold decode at h
  split at h
  · cases h
  rename_i hrsv
  replace hrsv := not_not.1 hrsv
  split at h
  case h_5 hopc | h_10 hopc | h_12 hopc =>
    obtain ⟨h1, rfl⟩ := decodeArg0_eq_ok_iff.1 h
    exact ⟨hopc, rfl, h1, hrsv⟩
  case h_11 hopc =>
    cases h
    exact ⟨hopc, rfl, rfl, hrsv⟩
  case h_13 => cases h
  all_goals
    rename_i hopc
    obtain ⟨h0, h1, rfl⟩ := decodeNoOperand_eq_ok_iff.1 h
    exact ⟨hopc, h0, h1, hrsv⟩

/-- A word with a command's fields decodes to the command: OPC selects the command's branch, whose checks pass. -/
theorem decode_of_hasFields {w : Word} {i : Instr} (h : HasFields w i) : decode w = .ok i := by
  obtain ⟨hopc, h0, h1, hrsv⟩ := h
  unfold decode
  rw [if_neg (not_not.2 hrsv), hopc]
  cases i with
  | validate b | ismark b | b2h b =>
    subst h0
    exact decodeArg0_eq_ok_iff.2 ⟨h1, rfl⟩
  | h2b hi lo =>
    subst h0 h1
    rfl
  | _ => exact decodeNoOperand_eq_ok_iff.2 ⟨h0, h1, rfl⟩

/-- The decoder reads the command `i` from the one word that the encoder writes for it (30_encoding.md R96, R98). -/
theorem decode_eq_ok_iff {w : Word} {i : Instr} : decode w = .ok i ↔ encode i = w :=
  ⟨fun h => hasFields_iff.1 (hasFields_of_decode h), fun h => decode_of_hasFields (hasFields_iff.2 h)⟩

/-- Settles O1. -/
theorem decodeInvertsEncode : Obligations.DecodeInvertsEncode := by
  intro i
  exact decode_eq_ok_iff.2 rfl

/-- Settles O2. -/
theorem encodeInvertsDecode : Obligations.EncodeInvertsDecode := by
  intro w i h
  exact decode_eq_ok_iff.1 h

/-- Settles O5: each example word is the encoder's word of its command. -/
theorem exampleWordsDecode : Obligations.ExampleWordsDecode := by
  refine ⟨?_, ?_, ?_, ?_, ?_⟩ <;> exact decode_eq_ok_iff.2 (by decide)

/-! ### The legal words -/

/-- The encoder writes legal words (30_encoding.md R94, R98). -/
theorem wordWellFormed_encode (i : Instr) : wordWellFormed (encode i) = true := by
  cases i with
  | validate b => exact Laws.LegalWord.validate b
  | ismark c => exact Laws.LegalWord.ismark c
  | h2b hi lo => exact Laws.LegalWord.h2b hi lo
  | b2h b => exact Laws.LegalWord.b2h b
  | _ => rfl

/-- The three checks of a legal word, on the word's fields (30_encoding.md R94). -/
theorem wordWellFormed_iff {w : Word} :
    wordWellFormed w = true ↔ (opcOf w).toNat < 12 ∧ rsvOf w = 0 ∧
      ((opcOf w).toNat ∈ [4, 9, 10, 11] ∨ arg0Of w = 0) ∧ ((opcOf w).toNat = 10 ∨ arg1Of w = 0) := by
  simp only [← BitVec.toNat_inj, opcOf_toNat, arg0Of_toNat, arg1Of_toNat, rsvOf_toNat]
  simp [wordWellFormed, opcodeAssigned, reservedClear, unusedClear, Nat.lt_succ_iff, and_assoc, or_assoc]

/-- Every assigned opcode with operand bytes, 0 where the opcode does not use them, is some command's. -/
theorem exists_instr_of_fields {n : Nat} {a b : Byte} (hn : n < 12) (ha : n ∈ [4, 9, 10, 11] ∨ a = 0)
    (hb : n = 10 ∨ b = 0) : ∃ i : Instr, i.opcode = n ∧ i.arg0 = a ∧ i.arg1 = b := by
  interval_cases n <;> simp at ha hb
  · exact ⟨.nop, rfl, ha.symm, hb.symm⟩
  · exact ⟨.pack, rfl, ha.symm, hb.symm⟩
  · exact ⟨.unpack, rfl, ha.symm, hb.symm⟩
  · exact ⟨.cksum, rfl, ha.symm, hb.symm⟩
  · exact ⟨.validate a, rfl, rfl, hb.symm⟩
  · exact ⟨.encode, rfl, ha.symm, hb.symm⟩
  · exact ⟨.decode, rfl, ha.symm, hb.symm⟩
  · exact ⟨.framelen, rfl, ha.symm, hb.symm⟩
  · exact ⟨.clear, rfl, ha.symm, hb.symm⟩
  · exact ⟨.ismark a, rfl, rfl, hb.symm⟩
  · exact ⟨.h2b a b, rfl, rfl, rfl⟩
  · exact ⟨.b2h a, rfl, rfl, hb.symm⟩

/-- The decoder reads a command from exactly the legal words (30_encoding.md R94, R96). -/
theorem exists_decode_ok_iff (w : Word) : (∃ i, decode w = .ok i) ↔ wordWellFormed w = true := by
  constructor
  · rintro ⟨i, h⟩
    rw [← decode_eq_ok_iff.1 h]
    exact wordWellFormed_encode i
  · intro h
    obtain ⟨hopc, hrsv, h0, h1⟩ := wordWellFormed_iff.1 h
    obtain ⟨i, hi, hi0, hi1⟩ := exists_instr_of_fields hopc h0 h1
    exact ⟨i, decode_of_hasFields ⟨hi.symm, hi0.symm, hi1.symm, hrsv⟩⟩

/-- The decoder rejects exactly the words that are not legal. -/
theorem exists_decode_error_iff (w : Word) : (∃ e, decode w = .error e) ↔ ¬wordWellFormed w = true := by
  rw [← exists_decode_ok_iff]
  cases decode w <;> simp

/-- Settles O4: the three cases are the three failed checks of a legal word. -/
theorem decodeRejectsExactlyIllegalWords : Obligations.DecodeRejectsExactlyIllegalWords := by
  intro w
  rw [exists_decode_error_iff, wordWellFormed_iff, ← BitVec.toNat_inj, ← BitVec.toNat_inj, ← BitVec.toNat_inj,
    opcOf_toNat, arg0Of_toNat, arg1Of_toNat, rsvOf_toNat]
  simp only [not_and_or, not_or, not_lt]
  rfl

/-! ### The opcode map -/

/-- A row fixes OPC and RSV, and each operand that its command does not use (30_encoding.md R93). -/
theorem commandRows_fields : ∀ r ∈ commandRows,
    opcOf r.mask = 0xFF ∧ (opcOf r.pattern).toNat < 12 ∧ rsvOf r.mask = 0xFF ∧ rsvOf r.pattern = 0 ∧
    arg0Of r.mask = (if (opcOf r.pattern).toNat ∈ [4, 9, 10, 11] then 0 else 0xFF) ∧ arg0Of r.pattern = 0 ∧
    arg1Of r.mask = (if (opcOf r.pattern).toNat = 10 then 0 else 0xFF) ∧ arg1Of r.pattern = 0 := by
  decide

/-- Different rows have different opcodes. -/
theorem commandRows_eq_of_opcode : ∀ r₁ ∈ commandRows, ∀ r₂ ∈ commandRows,
    opcOf r₁.pattern = opcOf r₂.pattern → r₁ = r₂ := by
  decide

theorem and_ones (b : Byte) : b &&& 0xFF = b := BitVec.and_allOnes

/-- The mask of an operand field asks for 0 exactly where the field is not used (30_encoding.md R93). -/
theorem and_operandMask_eq_zero_iff (b : Byte) (used : Prop) [Decidable used] :
    b &&& (if used then 0 else 0xFF) = 0 ↔ used ∨ b = 0 := by
  split_ifs with h
  · exact iff_of_true BitVec.and_zero (.inl h)
  · rw [and_ones, or_iff_right h]

/-- A row's match and mask spell the legal words of the row's opcode. -/
theorem spells_iff {r : CommandRow} (hr : r ∈ commandRows) (w : Word) :
    r.spells w = true ↔ wordWellFormed w = true ∧ opcOf w = opcOf r.pattern := by
  obtain ⟨hopcMask, hopc, hrsvMask, hrsv, harg0Mask, harg0, harg1Mask, harg1⟩ := commandRows_fields r hr
  rw [CommandRow.spells, beq_iff_eq, word_eq_iff, opcOf_and, arg0Of_and, arg1Of_and, rsvOf_and, hopcMask, hrsvMask,
    hrsv, harg0Mask, harg0, harg1Mask, harg1, and_ones, and_ones, and_operandMask_eq_zero_iff,
    and_operandMask_eq_zero_iff, wordWellFormed_iff]
  constructor
  · rintro ⟨hw, h0, h1, hrsvW⟩
    rw [hw]
    exact ⟨⟨hopc, hrsvW, h0, h1⟩, rfl⟩
  · rintro ⟨⟨-, hrsvW, h0, h1⟩, hw⟩
    rw [hw] at h0 h1
    exact ⟨hw, h0, h1, hrsvW⟩

/-- A command has its row's mnemonic exactly when it has the row's opcode. -/
theorem mnemonic_eq_iff_opcode_eq (i : Instr) : ∀ r ∈ commandRows,
    (i.mnemonic = r.mnemonic ↔ i.opcode = (opcOf r.pattern).toNat) := by
  cases i <;> simp [commandRows, Instr.mnemonic, opcOf]

/-- A row spells the words that decode to a command with the row's mnemonic. -/
theorem spells_iff_decode {r : CommandRow} (hr : r ∈ commandRows) (w : Word) :
    r.spells w = true ↔ ∃ i, decode w = .ok i ∧ i.mnemonic = r.mnemonic := by
  have hopcode {i : Instr} (h : decode w = .ok i) : i.mnemonic = r.mnemonic ↔ opcOf w = opcOf r.pattern := by
    rw [mnemonic_eq_iff_opcode_eq i r hr, ← (hasFields_of_decode h).opc, BitVec.toNat_inj]
  rw [spells_iff hr, ← exists_decode_ok_iff]
  constructor
  · rintro ⟨⟨i, h⟩, hopc⟩
    exact ⟨i, h, (hopcode h).2 hopc⟩
  · rintro ⟨i, h, hm⟩
    exact ⟨⟨i, h⟩, (hopcode h).1 hm⟩

/-- Settles O3: a row is the legal words of its opcode, and no two rows share one. -/
theorem decodeFollowsOpcodeMap : Obligations.DecodeFollowsOpcodeMap := by
  refine ⟨fun w r hr => spells_iff_decode hr w, fun w r₁ h₁ r₂ h₂ hw₁ hw₂ => ?_⟩
  have hopc₁ := ((spells_iff h₁ w).1 hw₁).2
  have hopc₂ := ((spells_iff h₂ w).1 hw₂).2
  exact commandRows_eq_of_opcode r₁ h₁ r₂ h₂ (hopc₁.symm.trans hopc₂)

end Sys2Proof
end

section
/-! PROOFS. The loop that waits for a command's completion (spec/30_encoding.md R97). -/

namespace Sys2Proof.Machine

/-- STATUS shows BUSY in bit 0 (10_state.md R27). -/
theorem statusWord_getLsbD_zero (s : State) : (statusWord s).getLsbD 0 = s.busy := by
  rw [BitVec.getLsbD, Nat.testBit_zero, statusWordHasStatedLayout s]
  cases s.busy <;> simp <;> omega

/-- STATUS is in no write set, so a read of it is never unspecified (70_reset_and_hazards.md R246). -/
theorem targetUnspecified_status (s : State) : targetUnspecified s (.reg .status) = false := by
  have hw (i : Instr) : writesReg i .status = false := by cases i <;> rfl
  unfold targetUnspecified regUnspecified
  cases decode s.pending <;> simp [hw]

/-- A read of STATUS shows it, idle or BUSY. -/
theorem serveRead_status (s : State) : serveRead 0x010 4 s = respond ⟨.okay, statusWord s⟩ s := by
  obtain ⟨ht, ha⟩ := target_of_reg (Reg.ofOffset_offset .status)
  exact serveRead_okay ha ht (targetUnspecified_status s)

/-- A round of POLL shows STATUS, and puts POLL back on the queue while BUSY is 1 (30_encoding.md R97). -/
theorem servePoll_eq (s : State) :
    servePoll s = { s with
      response := some ⟨.okay, statusWord s⟩
      inputs := if s.busy then .poll :: s.inputs else s.inputs } := by
  rw [servePoll, serveRead_status, statusWord_getLsbD_zero]
  split_ifs <;> rfl

/-- Settles O57. -/
theorem pollWaitsForCompletion : Obligations.PollWaitsForCompletion := by
  intro s rest h
  rw [step_of_servesNext h, serve, servePoll_eq]
  rfl

end Sys2Proof.Machine
end

section
/-! PROOFS. The packer (spec/40_packer.md): the packed bytes and the fields on plain numbers, the layout table, and what
PACK, UNPACK and CLEAR do. -/

namespace Sys2Proof.Machine

/-! ### Packed bytes and fields on plain numbers -/

/-- Bits above a position and bits below it do not meet, so their OR is their sum (40_packer.md R111). -/
theorem toNat_or_eq_add {n k : Nat} {x y : BitVec n} (hx : 2 ^ k ∣ x.toNat) (hy : y.toNat < 2 ^ k) :
    (x ||| y).toNat = x.toNat + y.toNat := by
  obtain ⟨c, hc⟩ := hx
  rw [BitVec.toNat_or, hc, Nat.two_pow_add_eq_or_of_lt hy]

/-- A field masked to its width and shifted to its offset loses no bit, where its slot fits a byte
(40_packer.md R121). -/
theorem maskTo_shiftLeft_toNat {w k : Nat} (h : w + k ≤ 8) (v : Byte) :
    (maskTo w v <<< k).toNat = v.toNat % 2 ^ w * 2 ^ k := by
  have hlt : v.toNat % 2 ^ w * 2 ^ k < 2 ^ 8 :=
    calc v.toNat % 2 ^ w * 2 ^ k < 2 ^ w * 2 ^ k :=
          Nat.mul_lt_mul_of_pos_right (Nat.mod_lt _ (Nat.two_pow_pos w)) (Nat.two_pow_pos k)
      _ = 2 ^ (w + k) := (Nat.pow_add 2 w k).symm
      _ ≤ 2 ^ 8 := Nat.pow_le_pow_right (by decide) h
  rw [BitVec.toNat_shiftLeft, maskTo_toNat (by omega), Nat.shiftLeft_eq, Nat.mod_eq_of_lt hlt]

/-- A field extracted by a shift and a mask is a quotient's remainder (40_packer.md R113). -/
theorem maskTo_shiftRight_toNat {w : Nat} (hw : w ≤ 8) (k : Nat) (v : Byte) :
    (maskTo w (v >>> k)).toNat = v.toNat / 2 ^ k % 2 ^ w := by
  rw [maskTo_toNat hw, BitVec.toNat_ushiftRight, Nat.shiftRight_eq_div_pow]

/-- The machine packs the bytes that the spec's arithmetic gives (40_packer.md R112). -/
theorem packBytes_toNat (f : Fields) (k : Nat) :
    ((packBytes f).toList.getD k 0).toNat = Spec.packedByte f k := by
  match k with
  | 0 => exact BitVec.toNat_setWidth 8 f.byteCount
  | 1 =>
    show (_ ||| _ ||| _ ||| _ : Byte).toNat = _
    have hver := maskTo_shiftLeft_toNat (w := 2) (k := 6) (by decide) f.version
    have hctx := maskTo_shiftLeft_toNat (w := 2) (k := 4) (by decide) f.context
    have hlast := maskTo_shiftLeft_toNat (w := 1) (k := 3) (by decide) f.lastBlock
    have hseq := maskTo_toNat (w := 3) (by decide) f.blockSeq
    have h6 := toNat_or_eq_add (k := 6) (x := maskTo 2 f.version <<< 6) (y := maskTo 2 f.context <<< 4)
      (by omega) (by omega)
    have h4 := toNat_or_eq_add (k := 4) (x := maskTo 2 f.version <<< 6 ||| maskTo 2 f.context <<< 4)
      (y := maskTo 1 f.lastBlock <<< 3) (by omega) (by omega)
    rw [toNat_or_eq_add (k := 3) (by omega) (by omega), h4, h6, hver, hctx, hlast, hseq]
    rfl
  | 2 =>
    have hcls := maskTo_shiftLeft_toNat (w := 3) (k := 5) (by decide) f.codeClass
    have hdet := maskTo_toNat (w := 5) (by decide) f.codeDetail
    exact (toNat_or_eq_add (k := 5) (by omega) (by omega)).trans (congrArg₂ (· + ·) hcls hdet)
  | 3 => rfl
  | 4 =>
    have hflag := maskTo_shiftLeft_toNat (w := 1) (k := 7) (by decide) f.obsFlag
    have hidx := maskTo_toNat (w := 7) (by decide) f.obsIdx
    exact (toNat_or_eq_add (k := 7) (by omega) (by omega)).trans (congrArg₂ (· + ·) hflag hidx)
  | 5 => rfl
  | _ + 6 => rfl

/-- The machine unpacks the fields that the spec's arithmetic gives (40_packer.md R113). -/
theorem unpackBytes_fieldsOf (p : Packed) :
    Spec.FieldsOf (fun k => (p.toList.getD k 0).toNat) (unpackBytes p) := by
  have h1 := p.p1.isLt
  have h2 := p.p2.isLt
  have h4 := p.p4.isLt
  refine ⟨BitVec.toNat_setWidth_of_le (by decide), ?_, maskTo_shiftRight_toNat (by decide) 4 _,
    maskTo_shiftRight_toNat (by decide) 3 _, maskTo_toNat (by decide) _, ?_, maskTo_toNat (by decide) _, rfl, ?_,
    maskTo_toNat (by decide) _, rfl⟩
  · exact (maskTo_shiftRight_toNat (by decide) 6 _).trans (Nat.mod_eq_of_lt (by omega))
  · exact (maskTo_shiftRight_toNat (by decide) 5 _).trans (Nat.mod_eq_of_lt (by omega))
  · exact (maskTo_shiftRight_toNat (by decide) 7 _).trans (Nat.mod_eq_of_lt (by omega))

/-! ### The layout table -/

/-- Settles O25: both are facts about the fixed table of 40_packer.md R110. -/
theorem layoutMasksTileEveryByte : Obligations.LayoutMasksTileEveryByte := by
  constructor
  · decide
  · decide

/-- The spec's arithmetic follows the table's rows; a field as wide as its register is not reduced (40_packer.md
R110). -/
theorem packedByte_eq_sum_layout (f : Fields) {k : Nat} (hk : k < 6) :
    Spec.packedByte f k = ((Config.fieldLayout.filter (fun r => r.byte == k)).map
      (fun r => Spec.fieldValue f r.name % 2 ^ r.width * 2 ^ r.offset)).sum := by
  have hmsg : f.msgId.toNat % 256 = f.msgId.toNat := Nat.mod_eq_of_lt f.msgId.isLt
  have hres : f.resIdx.toNat % 256 = f.resIdx.toNat := Nat.mod_eq_of_lt f.resIdx.isLt
  match k, hk with
  | 0, _ | 1, _ | 2, _ | 3, _ | 4, _ | 5, _ =>
    simp [Spec.packedByte, Config.fieldLayout, Spec.fieldValue, Nat.add_assoc, hmsg, hres]

/-- Settles O24. -/
theorem packBytesFollowLayoutTable : Obligations.PackBytesFollowLayoutTable := by
  intro f k hk
  rw [packBytes_toNat, packedByte_eq_sum_layout f hk]

/-! ### The laws of R119 -/

/-- Field registers that hold the fields of six bytes pack back into them: the fields tile each byte (40_packer.md
R111, R119). -/
theorem packedByte_of_fieldsOf {p : Nat → Nat} {f : Fields} (h : Spec.FieldsOf p f) {k : Nat} (hk : k < 6)
    (hp : p k < 256) : Spec.packedByte f k = p k := by
  obtain ⟨hcount, hver, hctx, hlast, hseq, hcls, hdet, hmsg, hflag, hidx, hres⟩ := h
  match k, hk with
  | 0, _ => rw [Spec.packedByte, hcount, Nat.mod_eq_of_lt hp]
  | 1, _ => rw [Spec.packedByte]; omega
  | 2, _ => rw [Spec.packedByte]; omega
  | 3, _ => exact hmsg
  | 4, _ => rw [Spec.packedByte]; omega
  | 5, _ => exact hres

/-- The fields of the bytes that `f` packs are the fields of `f`, masked: no field reaches into another's bits
(40_packer.md R119). -/
theorem masked_of_fieldsOf_packedByte {f g : Fields} (h : Spec.FieldsOf (Spec.packedByte f) g) : Spec.Masked f g := by
  obtain ⟨hcount, hver, hctx, hlast, hseq, hcls, hdet, hmsg, hflag, hidx, hres⟩ := h
  simp only [Spec.packedByte] at hcount hver hctx hlast hseq hcls hdet hmsg hflag hidx hres
  have hm := f.msgId.isLt
  have hr := f.resIdx.isLt
  simp only [Spec.Masked, Config.fieldLayout, List.forall_mem_cons, Spec.fieldValue]
  refine ⟨?_, ?_, ?_, ?_, ?_, ?_, ?_, ?_, ?_, ?_, ?_, List.forall_mem_nil _⟩ <;> omega

/-- Fields masked to widths they are within are the same fields: each register has its row in the table. -/
theorem eq_of_masked_of_withinWidths {f g : Fields} (hm : Spec.Masked f g) (hw : Spec.WithinWidths f) : g = f := by
  have hvalue (n : FieldName) : Spec.fieldValue g n = Spec.fieldValue f n := by
    obtain ⟨r, hr, rfl⟩ : ∃ r ∈ Config.fieldLayout, r.name = n := by cases n <;> decide
    rw [hm r hr, Nat.mod_eq_of_lt (hw r hr)]
  cases f
  cases g
  simp only [Fields.mk.injEq]
  exact ⟨BitVec.eq_of_toNat_eq (hvalue .byteCount), BitVec.eq_of_toNat_eq (hvalue .version),
    BitVec.eq_of_toNat_eq (hvalue .context), BitVec.eq_of_toNat_eq (hvalue .lastBlock),
    BitVec.eq_of_toNat_eq (hvalue .blockSeq), BitVec.eq_of_toNat_eq (hvalue .codeClass),
    BitVec.eq_of_toNat_eq (hvalue .codeDetail), BitVec.eq_of_toNat_eq (hvalue .msgId),
    BitVec.eq_of_toNat_eq (hvalue .obsFlag), BitVec.eq_of_toNat_eq (hvalue .obsIdx),
    BitVec.eq_of_toNat_eq (hvalue .resIdx)⟩

theorem Packed.eq_of_getD {p q : Packed} (h : ∀ k < 6, p.toList.getD k 0 = q.toList.getD k 0) : p = q := by
  cases p
  cases q
  simp only [Packed.mk.injEq]
  exact ⟨h 0 (by decide), h 1 (by decide), h 2 (by decide), h 3 (by decide), h 4 (by decide), h 5 (by decide)⟩

/-- Packing what was unpacked gives the six bytes back (40_packer.md R119 (a)). -/
theorem packBytes_unpackBytes (p : Packed) : packBytes (unpackBytes p) = p := by
  refine Packed.eq_of_getD fun k hk => BitVec.eq_of_toNat_eq ?_
  rw [packBytes_toNat]
  exact packedByte_of_fieldsOf (unpackBytes_fieldsOf p) hk (BitVec.isLt _)

/-- Unpacking what was packed masks each field to its width (40_packer.md R119 (b)). -/
theorem masked_unpackBytes_packBytes (f : Fields) : Spec.Masked f (unpackBytes (packBytes f)) := by
  have h := unpackBytes_fieldsOf (packBytes f)
  simp only [packBytes_toNat] at h
  exact masked_of_fieldsOf_packedByte h

/-! ### The commands -/

/-- PACKED[0..5], byte by byte (10_state.md R49). -/
theorem loadPacked_getD (s : State) {k : Nat} (hk : k < 6) :
    (loadPacked s).toList.getD k 0 = loadByte s (packedAddr k) := by
  match k, hk with
  | 0, _ | 1, _ | 2, _ | 3, _ | 4, _ | 5, _ => rfl

theorem loadPacked_complete (e : BitVec 4) (r : Half) (s : State) :
    loadPacked (complete e r s) = loadPacked s := rfl

/-- PACKED[k] after a write of the packed bytes. -/
theorem loadByte_storePacked_packedAddr (p : Packed) (s : State) {k : Nat} (hk : k < 6) :
    loadByte (storeBytes (packedAddr 0) p.toList s) (packedAddr k) = p.toList.getD k 0 := by
  rw [loadByte_storePacked, packedAddr, if_pos (by omega), Nat.add_sub_cancel_left]

/-- UNPACK reads the packed bytes that PACK wrote. -/
theorem loadPacked_storePacked (p : Packed) (s : State) :
    loadPacked (storeBytes (packedAddr 0) p.toList s) = p := by
  refine Packed.eq_of_getD fun k hk => ?_
  rw [loadPacked_getD _ hk, loadByte_storePacked_packedAddr p s hk]

/-- Settles O20. -/
theorem packWritesPackedBytes : Obligations.PackWritesPackedBytes := by
  refine ⟨decode_eq_ok_iff.2 rfl, fun s => ⟨_, exec_pack s, rfl, fun k hk => ?_, fun a ha => ?_⟩⟩
  · rw [loadByte_complete, loadByte_storePacked_packedAddr _ _ hk, packBytes_toNat]
  · rw [loadByte_complete, loadByte_storePacked, if_neg ha]

/-- Settles O21. -/
theorem unpackExtractsFields : Obligations.UnpackExtractsFields :=
  ⟨decode_eq_ok_iff.2 rfl, fun s => ⟨_, exec_unpack s, unpackBytes_fieldsOf (loadPacked s)⟩⟩

/-- Settles O22. -/
theorem clearZeroesMessageState : Obligations.ClearZeroesMessageState := by
  refine ⟨decode_eq_ok_iff.2 rfl, fun s => ⟨_, exec_clear s, ?_, fun k hk => ?_, fun j hj => ?_, ?_, fun a hp hq => ?_⟩⟩
  · simp [complete, State.ended, clearMessage, Fields.zero]
  · have h : isPackedByte (packedAddr k) = true := (isPackedByte_iff _).2 (by rw [packedAddr]; omega)
    simp [loadByte_clearMessage, h]
  · have h : isPayloadByte (payloadAddr j) = true := (isPayloadByte_iff _).2 (by rw [payloadAddr]; omega)
    simp [loadByte_clearMessage, h]
  · obtain ⟨-, hread, -, -⟩ := codetagFollowsCodeClass
    rw [hread]
    rfl
  · simp [loadByte_clearMessage, isPackedByte, isPayloadByte, hp, hq]

/-- Settles O23: PACK then UNPACK unpacks what was packed. -/
theorem packAndUnpackAreInverse : Obligations.PackAndUnpackAreInverse := by
  refine ⟨packBytes_unpackBytes, masked_unpackBytes_packBytes, fun s hw => ⟨_, _, exec_pack s, exec_unpack _, ?_⟩⟩
  simp only [complete_fields, loadPacked_complete, loadPacked_storePacked]
  exact eq_of_masked_of_withinWidths (masked_unpackBytes_packBytes s.fields) hw

end Sys2Proof.Machine
end

section
/-! PROOFS. The checksum (spec/41_checksum.md): sums of bytes modulo 256, the checksum on plain numbers, the bytes of a
frame and of the text that ENCODE writes, and what CKSUM and VALIDATE do. -/

namespace Sys2Proof.Machine

/-! ### Sums of bytes modulo 256 -/

theorem sum8_append (xs ys : List Byte) : sum8 (xs ++ ys) = sum8 xs + sum8 ys := by
  induction xs with
  | nil => exact (BitVec.zero_add _).symm
  | cons x xs ih => rw [List.cons_append, sum8, sum8, ih, BitVec.add_assoc]

/-- `sum8` is the sum on plain numbers, modulo 256 (41_checksum.md R130). -/
theorem sum8_toNat (bs : List Byte) : (sum8 bs).toNat = (bs.map BitVec.toNat).sum % 256 := by
  induction bs with
  | nil => rfl
  | cons b bs ih =>
    rw [sum8, BitVec.toNat_add, ih, List.map_cons, List.sum_cons]
    omega

theorem neg8_eq_neg (x : Byte) : neg8 x = -x := (BitVec.neg_eq_not_add x).symm

/-- The checksum is the negated sum of the packed bytes and the payload as one list (41_checksum.md R131). -/
theorem checksumOf_eq_neg_sum8 (p : Packed) (q : List Byte) : checksumOf p q = -sum8 (p.toList ++ q) := by
  rw [checksumOf, neg8_eq_neg, sum8_append]

/-- A frame's bytes, the marker left out, sum to 0 (41_checksum.md R134). -/
theorem sum8_frame (p : Packed) (q : List Byte) : sum8 (p.toList ++ q ++ [checksumOf p q]) = 0 := by
  rw [sum8_append, checksumOf_eq_neg_sum8, sum8, sum8]
  simp

/-- Lists that differ in one byte have different sums: the other bytes cancel. -/
theorem sum8_ne_of_one_byte {a b : Byte} (h : a ≠ b) (before after : List Byte) :
    sum8 (before ++ a :: after) ≠ sum8 (before ++ b :: after) := by
  simp only [sum8_append, sum8]
  intro hsum
  exact h (add_right_cancel (add_left_cancel hsum))

/-- Settles O30: equal checksums come from equal sums. -/
theorem oneByteChangeChangesChecksum : Obligations.OneByteChangeChangesChecksum := by
  intro p p' q q' before after a b hab hp hp' heq
  rw [checksumOf_eq_neg_sum8, checksumOf_eq_neg_sum8, hp, hp'] at heq
  exact sum8_ne_of_one_byte hab before after (neg_injective heq)

/-! ### The checksum on plain numbers -/

theorem loadBytes_eq_map_range (s : State) (a n : Nat) :
    loadBytes s a n = (List.range n).map (fun j => loadByte s (a + j)) := by
  refine List.ext_getElem (by simp) fun k hk _ => ?_
  simp

/-- The numbers of a list of bytes, by index. -/
theorem map_toNat_eq_map_range (bs : List Byte) :
    bs.map BitVec.toNat = (List.range bs.length).map (fun k => (bs.getD k 0).toNat) := by
  refine List.ext_getElem (by simp) fun k hk _ => ?_
  rw [List.length_map] at hk
  simp [hk]

/-- The bytes that the machine sums are those of the spec's sum (41_checksum.md R131). -/
theorem sum_message_toNat {s : State} (h : s.fields.byteCount.toNat ≤ 255) :
    (((packBytes s.fields).toList ++ payloadBytes s).map BitVec.toNat).sum = Spec.messageSum s := by
  have hpacked : (packBytes s.fields).toList.map BitVec.toNat = (List.range 6).map (Spec.packedByte s.fields) := by
    simp only [map_toNat_eq_map_range, packBytes_toNat]
    rfl
  have hpayload : (payloadBytes s).map BitVec.toNat =
      (List.range s.fields.byteCount.toNat).map (fun j => (loadByte s (payloadAddr j)).toNat) := by
    rw [payloadBytes, payloadCount_eq s h, loadBytes_eq_map_range, List.map_map]
    rfl
  rw [List.map_append, List.sum_append, hpacked, hpayload, Spec.messageSum]

/-- The machine computes the checksum that the spec's arithmetic gives (41_checksum.md R130, R131). -/
theorem computeChecksum_toNat {s : State} (h : s.fields.byteCount.toNat ≤ 255) :
    (computeChecksum s).toNat = Spec.checksum s := by
  rw [computeChecksum, checksumOf_eq_neg_sum8, BitVec.toNat_neg, sum8_toNat, sum_message_toNat h]
  rfl

theorem checksum_lt_256 (s : State) : Spec.checksum s < 256 := Nat.mod_lt _ (by decide)

theorem computeChecksum_eq_ofNat {s : State} (h : s.fields.byteCount.toNat ≤ 255) :
    computeChecksum s = BitVec.ofNat 8 (Spec.checksum s) := by
  rw [← computeChecksum_toNat h, BitVec.ofNat_toNat, BitVec.setWidth_eq]

/-! ### CKSUM and VALIDATE -/

/-- A command that succeeds ends with code 0 and its value (60_exceptions.md R205). -/
theorem complete_success (r : Half) (s : State) : complete 0 r s = s.ended 0 r := rfl

/-- A command that raises ends with its code and RESULT 0 (60_exceptions.md R205). -/
theorem complete_value_zero (e : BitVec 4) (s : State) : complete e 0 s = s.ended e 0 := by
  simp [complete, State.ended]

/-- Settles O27. -/
theorem cksumWritesChecksum : Obligations.CksumWritesChecksum := by
  refine ⟨decode_eq_ok_iff.2 rfl, fun s => ⟨fun hfits => ?_, fun hlarge => ?_⟩⟩
  · have hresult : (BitVec.ofNat 8 (Spec.checksum s)).setWidth 16 = BitVec.ofNat 16 (Spec.checksum s) :=
      BitVec.setWidth_ofNat_of_le_of_lt (by decide) (checksum_lt_256 s)
    rw [exec_cksum, (payloadTooLarge_eq_false s).2 hfits, computeChecksum_eq_ofNat hfits, hresult]
    rfl
  · rw [exec_cksum, if_pos ((payloadTooLarge_iff s).2 hlarge), complete_value_zero]

/-- Settles O28. -/
theorem validateComparesChecksum : Obligations.ValidateComparesChecksum := by
  refine fun s b => ⟨decode_eq_ok_iff.2 ?_, fun hfits => ?_, fun hlarge => ?_⟩
  · rw [← encode_validate_toNat, BitVec.ofNat_toNat, BitVec.setWidth_eq]
  · have hmatch : b = computeChecksum s ↔ b.toNat = Spec.checksum s := by
      rw [← computeChecksum_toNat hfits, BitVec.toNat_inj]
    rw [exec_validate, (payloadTooLarge_eq_false s).2 hfits]
    simp only [hmatch, complete_success, Bool.false_eq_true, if_false]
  · rw [exec_validate, if_pos ((payloadTooLarge_iff s).2 hlarge), complete_value_zero]

/-! ### The text that ENCODE writes -/

/-- A digit that the block writes reads back as its value (42_hex_codec.md R140, R141). -/
theorem digit_hexchar (n : BitVec 4) : Spec.digit (hexchar n) = some n.toNat := by
  revert n; decide

theorem nibbles_toNat (b : Byte) : 16 * (highNibble b).toNat + (lowNibble b).toNat = b.toNat := by
  have hb := b.isLt
  simp only [highNibble, lowNibble, BitVec.extractLsb'_toNat, Nat.shiftRight_eq_div_pow]
  omega

/-- The pair that renders a byte reads back as its number (42_hex_codec.md R142, R143). -/
theorem pair_hexchar (b : Byte) :
    Spec.pair (hexchar (highNibble b)) (hexchar (lowNibble b)) = some b.toNat := by
  simp only [Spec.pair, digit_hexchar, nibbles_toNat]

/-- The pair at index `k` of rendered bytes is the two digits of byte `k`. -/
theorem flatMap_renderPair_getD {bs : List Byte} {k : Nat} (hk : k < bs.length) :
    (bs.flatMap renderPair).getD (2 * k) 0 = hexchar (highNibble (bs.getD k 0)) ∧
    (bs.flatMap renderPair).getD (2 * k + 1) 0 = hexchar (lowNibble (bs.getD k 0)) := by
  induction bs generalizing k with
  | nil => cases hk
  | cons b bs ih =>
    cases k with
    | zero => exact ⟨rfl, rfl⟩
    | succ k => exact ih (Nat.lt_of_succ_lt_succ hk)

/-- TEXT[i] after the writes of ENCODE, inside the frame (42_hex_codec.md R146). -/
theorem textChar_writeFrame (p : Packed) {q : List Byte} (c : Byte) (s : State) (hq : q.length < 256) {i : Nat}
    (hi : i < 15 + 2 * q.length) : textChar (writeFrame p q c s) i = (frameText p q c).getD i 0 := by
  rw [textChar, loadByte_writeFrame_cases p q c s hq, textAddr, if_neg (by omega), if_pos (by omega),
    Nat.add_sub_cancel_left]

/-- A frame's bytes, the marker left out: six packed bytes, the payload and the checksum (42_hex_codec.md R144). -/
theorem frameBytes_length (p : Packed) (q : List Byte) (c : Byte) : (p.toList ++ q ++ [c]).length = 7 + q.length := by
  simp only [List.length_append, Packed.toList, List.length_cons, List.length_nil]
  omega

/-- The pair at TEXT[1 + 2k] after the writes of ENCODE is byte `k` of the frame (42_hex_codec.md R144, R146). -/
theorem textPair_writeFrame (p : Packed) {q : List Byte} (c : Byte) (s : State) (hq : q.length < 256) {k : Nat}
    (hk : k < 7 + q.length) :
    Spec.textPair (writeFrame p q c s) (1 + 2 * k) = some ((p.toList ++ q ++ [c]).getD k 0).toNat := by
  obtain ⟨hhi, hlo⟩ := flatMap_renderPair_getD (frameBytes_length p q c ▸ hk)
  rw [Spec.textPair, textChar_writeFrame p c s hq (by omega), textChar_writeFrame p c s hq (by omega),
    Nat.add_comm 1, frameText, List.getD_cons_succ, List.getD_cons_succ, hhi, hlo, pair_hexchar]

/-- The spec's sum over the text of a frame is the sum of the frame's bytes. -/
theorem frameSum_writeFrame (p : Packed) {q : List Byte} (c : Byte) (s : State) (hq : q.length < 256) :
    Spec.frameSum (writeFrame p q c s) q.length = ((p.toList ++ q ++ [c]).map BitVec.toNat).sum := by
  rw [Spec.frameSum, map_toNat_eq_map_range, frameBytes_length]
  refine congrArg List.sum (List.map_congr_left fun k hk => ?_)
  rw [textPair_writeFrame p c s hq (List.mem_range.1 hk), Option.getD_some]

/-- The end of a command leaves the text alone. -/
theorem frameSum_complete (e : BitVec 4) (r : Half) (s : State) (bc : Nat) :
    Spec.frameSum (complete e r s) bc = Spec.frameSum s bc := rfl

/-- An ENCODE whose payload fits writes the frame (42_hex_codec.md R146). -/
theorem exec_encode_of_fits {s : State} (h : s.fields.byteCount.toNat ≤ 255) :
    exec .encode s = .next (complete 0 (BitVec.ofNat 16 (frameLen (payloadCount s)))
      (writeFrame (packBytes s.fields) (payloadBytes s) (computeChecksum s) s)) := by
  rw [exec_encode, (payloadTooLarge_eq_false s).2 h]
  rfl

/-- Settles O29: both sums are `sum8_frame` on plain numbers. -/
theorem frameBytesSumToZero : Obligations.FrameBytesSumToZero := by
  intro s h
  have hframe :
      (((packBytes s.fields).toList ++ payloadBytes s ++ [computeChecksum s]).map BitVec.toNat).sum % 256 = 0 := by
    rw [← sum8_toNat, computeChecksum, sum8_frame]
    rfl
  have hlen : (payloadBytes s).length = s.fields.byteCount.toNat := by
    rw [payloadBytes_length, payloadCount_eq s h]
  refine ⟨?_, _, exec_encode_of_fits h, ?_⟩
  · rw [List.map_append, List.sum_append, sum_message_toNat h] at hframe
    exact hframe
  · rw [frameSum_complete, ← hlen, frameSum_writeFrame _ _ _ (by omega), hframe]

end Sys2Proof.Machine
end

section
/-! PROOFS. The hex codec (spec/42_hex_codec.md): digits and pairs on plain numbers, the frame that ENCODE writes, the
run of pairs that DECODE parses, its checks against the spec's, and what ENCODE, DECODE, ISMARK, H2B and B2H do. -/

namespace Sys2Proof.Machine

/-! ### Digits and pairs on plain numbers -/

/-- A digit from its ranges of codes has the spec's value (42_hex_codec.md R140). -/
theorem hexval_toNat (c : Byte) : (hexval c).map BitVec.toNat = Spec.digit c := by
  simp only [hexval, Spec.digit, BitVec.le_def, BitVec.toNat_ofNat, Nat.reducePow, Nat.reduceMod]
  split_ifs <;>
    simp only [Option.map_some, Option.map_none, Option.some.injEq, BitVec.toNat_setWidth, BitVec.toNat_add,
      BitVec.toNat_sub, BitVec.toNat_ofNat] <;> omega

/-- Settles O31, by the ranges of the digits. -/
theorem hexvalAcceptsExactlyHexDigits : Obligations.HexvalAcceptsExactlyHexDigits := hexval_toNat

/-- Two characters make a byte exactly where the spec's arithmetic gives them a number, and the byte is that number
(42_hex_codec.md R142). -/
theorem hexPair_cases (hi lo : Byte) :
    (∃ b, hexPair hi lo = .ok b ∧ Spec.pair hi lo = some b.toNat) ∨
    (hexPair hi lo = .error .invalidHexDigit ∧ Spec.pair hi lo = none) := by
  rw [hexPair, Spec.pair, ← hexval_toNat, ← hexval_toNat]
  cases hexval hi with
  | none => exact .inr ⟨rfl, rfl⟩
  | some h =>
    cases hexval lo with
    | none => exact .inr ⟨rfl, rfl⟩
    | some l =>
      have hbyte : (h ++ l).toNat = 16 * h.toNat + l.toNat :=
        (append_toNat h l).trans (congrArg (· + l.toNat) (Nat.mul_comm _ _))
      exact .inl ⟨h ++ l, rfl, congrArg some hbyte.symm⟩

theorem hexPair_eq_ok_iff {hi lo b : Byte} : hexPair hi lo = .ok b ↔ Spec.pair hi lo = some b.toNat := by
  rcases hexPair_cases hi lo with ⟨b', hok, hpair⟩ | ⟨herror, hpair⟩
  · rw [hok, hpair, Except.ok.injEq, Option.some.injEq, BitVec.toNat_inj]
  · simp [herror, hpair]

theorem hexPair_eq_error_iff {hi lo : Byte} :
    hexPair hi lo = .error .invalidHexDigit ↔ Spec.pair hi lo = none := by
  rcases hexPair_cases hi lo with ⟨b, hok, hpair⟩ | ⟨herror, hpair⟩
  · simp [hok, hpair]
  · simp [herror, hpair]

/-- Settles O32: the pair reads back as the byte's number. -/
theorem renderedPairParsesBack : Obligations.RenderedPairParsesBack :=
  fun b => hexPair_eq_ok_iff.2 (pair_hexchar b)

theorem parsePair_eq_ok_iff {s : State} {i : Nat} {b : Byte} :
    parsePair s i = .ok b ↔ Spec.textPair s i = some b.toNat := hexPair_eq_ok_iff

theorem textPair_eq_none {s : State} {i : Nat} {e : ErrorCode} (h : parsePair s i = .error e) :
    Spec.textPair s i = none :=
  hexPair_eq_error_iff.1 (hexPair_error h ▸ h)

theorem exists_parsePair_of_textPair {s : State} {i n : Nat} (h : Spec.textPair s i = some n) :
    ∃ b, parsePair s i = .ok b ∧ b.toNat = n := by
  cases hb : parsePair s i with
  | error e =>
    rw [textPair_eq_none hb] at h
    cases h
  | ok b => exact ⟨b, rfl, Option.some.inj ((parsePair_eq_ok_iff.1 hb).symm.trans h)⟩

theorem hexchar_toNat (n : BitVec 4) : (hexchar n).toNat = Spec.upperDigit n.toNat := by
  revert n; decide

theorem highNibble_toNat (b : Byte) : (highNibble b).toNat = b.toNat / 16 := by
  have hb := b.isLt
  simp only [highNibble, BitVec.extractLsb'_toNat, Nat.shiftRight_eq_div_pow]
  omega

theorem lowNibble_toNat (b : Byte) : (lowNibble b).toNat = b.toNat % 16 := by
  simp [lowNibble, BitVec.extractLsb'_toNat]

/-! ### The commands of one character or byte -/

/-- The word that the encoder writes for a command, given as a number, decodes to it. -/
theorem decode_ofNat {i : Instr} {n : Nat} (h : (encode i).toNat = n) : decode (BitVec.ofNat 32 n) = .ok i := by
  rw [decode_eq_ok_iff, ← h, BitVec.ofNat_toNat, BitVec.setWidth_eq]

/-- Settles O41. -/
theorem ismarkTestsMarker : Obligations.IsmarkTestsMarker := by
  refine fun s c => ⟨decode_ofNat (encode_ismark_toNat c), ?_⟩
  have hmarker : c = Config.marker ↔ c.toNat = 0x3A := BitVec.toNat_inj.symm
  rw [exec_ismark, complete_success]
  simp only [hmarker]

/-- Settles O40. -/
theorem b2hReturnsTwoDigits : Obligations.B2hReturnsTwoDigits := by
  refine fun s b => ⟨decode_ofNat (encode_b2h_toNat b), ?_⟩
  have hdigits : (hexchar (lowNibble b) ++ hexchar (highNibble b)).toNat =
      Spec.upperDigit (b.toNat / 16) + 256 * Spec.upperDigit (b.toNat % 16) := by
    rw [append_toNat, hexchar_toNat, hexchar_toNat, highNibble_toNat, lowNibble_toNat]
    omega
  rw [exec_b2h, complete_success, ← hdigits, BitVec.ofNat_toNat, BitVec.setWidth_eq]

/-- Settles O39. -/
theorem h2bConvertsPair : Obligations.H2bConvertsPair := by
  refine fun s hi lo => ⟨decode_ofNat (encode_h2b_toNat hi lo), fun n hn => ?_, fun hnone => ?_⟩
  · rcases hexPair_cases hi lo with ⟨b, hok, hpair⟩ | ⟨-, hpair⟩
    · obtain rfl : b.toNat = n := Option.some.inj (hpair.symm.trans hn)
      rw [exec_h2b, hok, BitVec.ofNat_toNat]
      rfl
    · rw [hpair] at hn
      cases hn
  · rw [exec_h2b, hexPair_eq_error_iff.2 hnone]
    exact congrArg Host.Outcome.next (complete_value_zero 8 s)

/-! ### The bytes of a frame -/

/-- RESULT holds the length of every frame (42_hex_codec.md R145). -/
theorem frameLength_toNat {bc : Nat} (h : bc ≤ 255) : (BitVec.ofNat 16 (15 + 2 * bc)).toNat = 15 + 2 * bc :=
  (BitVec.toNat_ofNat _ _).trans (Nat.mod_eq_of_lt (by omega))

/-- The bytes of a frame, the marker left out, in the order of its pairs (42_hex_codec.md R144). -/
def Frame.bytes (f : Frame) : List Byte := f.packed.toList ++ f.payload ++ [f.checksum]

theorem Frame.bytes_length (f : Frame) : f.bytes.length = 7 + f.payload.length := frameBytes_length _ _ _

theorem Frame.bytes_getD_packed (f : Frame) {k : Nat} (hk : k < 6) : f.bytes.getD k 0 = f.packed.toList.getD k 0 := by
  have hpacked : k < f.packed.toList.length := hk
  rw [Frame.bytes, List.append_assoc, List.getD_append _ _ _ _ hpacked]

theorem Frame.bytes_getD_payload (f : Frame) {j : Nat} (hj : j < f.payload.length) :
    f.bytes.getD (6 + j) 0 = f.payload.getD j 0 := by
  have hpacked : f.packed.toList.length = 6 := rfl
  rw [Frame.bytes, List.append_assoc, List.getD_append_right _ _ _ _ (by omega), List.getD_append _ _ _ _ (by omega),
    hpacked, Nat.add_sub_cancel_left]

theorem Frame.bytes_getD_checksum (f : Frame) : f.bytes.getD (6 + f.payload.length) 0 = f.checksum := by
  have hbody : (f.packed.toList ++ f.payload).length = 6 + f.payload.length := by
    rw [List.length_append]
    rfl
  rw [Frame.bytes, List.getD_append_right _ _ _ _ hbody.le, hbody, Nat.sub_self]
  rfl

/-- The checksum test of DECODE is the spec's: the frame's bytes sum to 0 modulo 256 (41_checksum.md R134). -/
theorem Frame.sum_bytes_eq_zero_iff (f : Frame) :
    (f.bytes.map BitVec.toNat).sum % 256 = 0 ↔ checksumOf f.packed f.payload = f.checksum := by
  have hsum : sum8 f.bytes = sum8 (f.packed.toList ++ f.payload) + f.checksum := by
    rw [Frame.bytes, sum8_append, sum8, sum8, add_zero]
  rw [← sum8_toNat, checksumOf_eq_neg_sum8, neg_eq_iff_add_eq_zero, ← hsum, ← BitVec.toNat_inj]
  rfl

/-! ### ENCODE -/

/-- The pair at TEXT[1 + 2k] after the writes of ENCODE shows byte `k` of the frame (42_hex_codec.md R143, R146). -/
theorem showsByte_writeFrame (f : Frame) (s : State) (hq : f.payload.length < 256) {k : Nat}
    (hk : k < 7 + f.payload.length) :
    Spec.ShowsByte (writeFrame f.packed f.payload f.checksum s) (1 + 2 * k) (f.bytes.getD k 0).toNat := by
  obtain ⟨hhi, hlo⟩ := flatMap_renderPair_getD (f.bytes_length ▸ hk)
  rw [Spec.ShowsByte, textChar_writeFrame _ _ s hq (by omega), textChar_writeFrame _ _ s hq (by omega),
    Nat.add_comm 1, frameText, List.getD_cons_succ, List.getD_cons_succ, ← Frame.bytes, hhi, hlo, hexchar_toNat,
    hexchar_toNat, highNibble_toNat, lowNibble_toNat]
  exact ⟨rfl, rfl⟩

/-- The frame of the message in the registers and PAYLOAD: what ENCODE writes (42_hex_codec.md R146). -/
def messageFrame (s : State) : Frame := ⟨packBytes s.fields, payloadBytes s, computeChecksum s⟩

section
variable {s : State} (h : s.fields.byteCount.toNat ≤ 255)
include h

theorem messageFrame_payload_length : (messageFrame s).payload.length = s.fields.byteCount.toNat := by
  rw [messageFrame, payloadBytes_length, payloadCount_eq s h]

/-- The bytes of the message's frame are the numbers of the spec's arithmetic (42_hex_codec.md R146). -/
theorem messageFrame_bytes_toNat :
    (∀ k < 6, ((messageFrame s).bytes.getD k 0).toNat = Spec.packedByte s.fields k) ∧
    (∀ j < s.fields.byteCount.toNat,
      ((messageFrame s).bytes.getD (6 + j) 0).toNat = (loadByte s (payloadAddr j)).toNat) ∧
    ((messageFrame s).bytes.getD (6 + s.fields.byteCount.toNat) 0).toNat = Spec.checksum s := by
  have hlen := messageFrame_payload_length h
  refine ⟨fun k hk => ?_, fun j hj => ?_, ?_⟩
  · rw [Frame.bytes_getD_packed _ hk]
    exact packBytes_toNat s.fields k
  · rw [Frame.bytes_getD_payload _ (by omega), List.getD_eq_getElem _ _ (by omega)]
    simp only [messageFrame, payloadBytes, loadBytes_getElem]
    rw [payloadAddr, payloadAddr, Nat.add_zero]
  · rw [← hlen, Frame.bytes_getD_checksum]
    exact computeChecksum_toNat h

end

/-- The state after the writes of an ENCODE whose payload fits (42_hex_codec.md R146). -/
def encoded (s : State) : State :=
  writeFrame (messageFrame s).packed (messageFrame s).payload (messageFrame s).checksum s

theorem exec_encode_eq_encoded {s : State} (h : s.fields.byteCount.toNat ≤ 255) :
    exec .encode s = .next ((encoded s).ended 0 (BitVec.ofNat 16 (15 + 2 * s.fields.byteCount.toNat))) := by
  rw [exec_encode_of_fits h, payloadCount_eq s h, complete_success]
  rfl

/-- Settles O33: TEXT shows the bytes of the message's frame. -/
theorem encodeRendersFrame : Obligations.EncodeRendersFrame := by
  refine ⟨decode_eq_ok_iff.2 rfl, fun s => ⟨fun hlarge => ?_, fun hfits => ?_⟩⟩
  · rw [exec_encode, if_pos ((payloadTooLarge_iff s).2 hlarge), complete_value_zero]
  · have hlen := messageFrame_payload_length hfits
    have hshows {k : Nat} (hk : k < 7 + s.fields.byteCount.toNat) :=
      showsByte_writeFrame (messageFrame s) s (by omega) (hlen ▸ hk)
    obtain ⟨hpacked, hpayload, hchecksum⟩ := messageFrame_bytes_toNat hfits
    refine ⟨_, exec_encode_eq_encoded hfits, ?_, ?_, fun k hk => ?_, fun j hj => ?_, ?_, fun k hk => ?_,
      fun a hp ht => ?_⟩
    · rw [← computeChecksum_eq_ofNat hfits]
      rfl
    · exact textChar_writeFrame _ _ s (by omega) (by omega)
    · rw [← hpacked k hk]
      exact hshows (by omega)
    · rw [← hpayload j hj, show 13 + 2 * j = 1 + 2 * (6 + j) by omega]
      exact hshows (by omega)
    · rw [← hchecksum, show 13 + 2 * s.fields.byteCount.toNat = 1 + 2 * (6 + s.fields.byteCount.toNat) by omega]
      exact hshows (by omega)
    · rw [← packBytes_toNat]
      refine congrArg _ ((loadByte_writeFrame_cases _ _ _ s (by omega) _).trans ?_)
      rw [packedAddr, if_pos (by omega), Nat.add_sub_cancel_left]
      rfl
    · refine (loadByte_writeFrame_cases _ _ _ s (by omega) _).trans ?_
      rw [hlen, if_neg hp, if_neg ht]

/-! ### The run of pairs that DECODE parses -/

theorem parsePairs_zero (s : State) (i : Nat) : parsePairs s i 0 = pure [] := rfl

theorem parsePairs_succ_eq_bind (s : State) (i n : Nat) :
    parsePairs s i (n + 1) = do
      let b ← parsePair s i
      let bs ← parsePairs s (i + 2) n
      return b :: bs := rfl

/-- A run is parsed as its two parts, one after the other. -/
theorem parsePairs_add (s : State) (i m n : Nat) :
    parsePairs s i (m + n) = do
      let xs ← parsePairs s i m
      let ys ← parsePairs s (i + 2 * m) n
      return xs ++ ys := by
  induction m generalizing i with
  | zero => simp [parsePairs_zero]
  | succ m ih =>
    rw [Nat.add_right_comm, parsePairs_succ_eq_bind, parsePairs_succ_eq_bind, ih,
      show i + 2 + 2 * m = i + 2 * (m + 1) by omega]
    simp only [bind_assoc, pure_bind, List.cons_append]

/-- A run that fails has a pair that is no hex pair. -/
theorem exists_textPair_eq_none {s : State} {i n : Nat} (h : ∀ bs, parsePairs s i n ≠ .ok bs) :
    ∃ k < n, Spec.textPair s (i + 2 * k) = none := by
  induction n generalizing i with
  | zero => exact absurd rfl (h [])
  | succ n ih =>
    cases hb : parsePair s i with
    | error e => exact ⟨0, by omega, textPair_eq_none hb⟩
    | ok b =>
      obtain ⟨k, hk, hnone⟩ := ih (i := i + 2) fun bs hbs => h (b :: bs) (by simp [parsePairs_succ, hb, hbs])
      exact ⟨k + 1, by omega, by rwa [show i + 2 * (k + 1) = i + 2 + 2 * k by omega]⟩

/-- DECODE's parsing after the byte count: the rest of the frame (42_hex_codec.md R147). -/
def parseFrame (s : State) (bc : Byte) : Except ErrorCode Frame := do
  let p ← parsePacked s bc
  let q ← parsePairs s 13 bc.toNat
  let c ← parsePair s (13 + 2 * bc.toNat)
  return ⟨p, q, c⟩

/-- The byte count and the rest of the frame are one run of pairs from TEXT[1] on (42_hex_codec.md R144, R147). -/
theorem bytes_parseFrame {s : State} {bc : Byte} (hcount : parsePair s 1 = .ok bc) :
    Frame.bytes <$> parseFrame s bc = parsePairs s 1 (7 + bc.toNat) := by
  replace hcount : parsePair s 1 = pure bc := hcount
  rw [show 7 + bc.toNat = 6 + (bc.toNat + 1) by omega, parsePairs_add, parsePairs_add]
  simp [parseFrame, parsePacked, parsePairs_zero, parsePairs_succ_eq_bind, hcount, Frame.bytes, Packed.toList]

/-- The bytes of the frame `f` are those of the pairs in TEXT, as many as its byte count says (42_hex_codec.md R144,
R145). -/
structure Frame.ReadFrom (f : Frame) (s : State) : Prop where
  length : f.payload.length = f.packed.p0.toNat
  pairs : ∀ k < 7 + f.packed.p0.toNat, Spec.textPair s (1 + 2 * k) = some (f.bytes.getD k 0).toNat

theorem readFrom_of_parseFrame {s : State} {bc : Byte} {f : Frame} (hcount : parsePair s 1 = .ok bc)
    (hf : parseFrame s bc = .ok f) : f.packed.p0 = bc ∧ f.ReadFrom s := by
  have hrun : parsePairs s 1 (7 + bc.toNat) = .ok f.bytes := by
    rw [← bytes_parseFrame hcount, hf]
    rfl
  obtain ⟨hlen, hpairs⟩ := (parsePairs_ok_iff s 1 _ _).1 hrun
  have hp0 : f.packed.p0 = bc := Except.ok.inj ((hpairs 0 (by omega)).symm.trans hcount)
  rw [f.bytes_length] at hlen
  subst hp0
  exact ⟨rfl, by omega, fun k hk => parsePair_eq_ok_iff.1 (hpairs k hk)⟩

theorem exists_textPair_eq_none_of_parseFrame {s : State} {bc : Byte} {e : ErrorCode}
    (hcount : parsePair s 1 = .ok bc) (he : parseFrame s bc = .error e) :
    e = .invalidHexDigit ∧ ∃ k < 7 + bc.toNat, Spec.textPair s (1 + 2 * k) = none := by
  have hrun : parsePairs s 1 (7 + bc.toNat) = .error e := by
    rw [← bytes_parseFrame hcount, he]
    rfl
  exact ⟨parsePairs_error hrun, exists_textPair_eq_none (by simp [hrun])⟩

/-! ### The checks of DECODE -/

/-- The checksum test of DECODE (42_hex_codec.md R147). -/
def Frame.check (f : Frame) : Except ErrorCode Frame :=
  if checksumOf f.packed f.payload = f.checksum then .ok f else .error .checksumMismatch

/-- DECODE's checks once the byte count is read (42_hex_codec.md R147). -/
theorem decodeFrame_of_count {s : State} {bc : Byte} (hlen : 15 ≤ s.declLen.toNat) (hcount : parsePair s 1 = .ok bc) :
    decodeFrame s =
      if s.declLen.toNat < 15 + 2 * bc.toNat then .error .frameIncomplete
      else if textChar s 0 ≠ 0x3A#8 then .error .invalidStartMarker
      else parseFrame s bc >>= Frame.check := by
  rw [decodeFrame_eq, if_neg (by omega), hcount, parseFrame]
  dsimp only
  cases parsePacked s bc with
  | error e => rfl
  | ok p =>
    cases parsePairs s 13 bc.toNat with
    | error e => rfl
    | ok q =>
      cases parsePair s (13 + 2 * bc.toNat) with
      | error e => rfl
      | ok c => simp [Frame.check, bind, Except.bind, pure, Except.pure]

/-- How DECODE's checks end, one case for each in their order (42_hex_codec.md R147, 60_exceptions.md R208). -/
inductive DecodeEnds (s : State) : Except ErrorCode Frame → Prop
  | tooShort (hlen : s.declLen.toNat < 15) : DecodeEnds s (.error .frameTooShort)
  | badCount (hlen : 15 ≤ s.declLen.toNat) (hcount : Spec.textPair s 1 = none) : DecodeEnds s (.error .invalidHexDigit)
  | incomplete (bc : Byte) (hlen : 15 ≤ s.declLen.toNat) (hcount : Spec.textPair s 1 = some bc.toNat)
      (hneed : s.declLen.toNat < 15 + 2 * bc.toNat) : DecodeEnds s (.error .frameIncomplete)
  | noMarker (bc : Byte) (hcount : Spec.textPair s 1 = some bc.toNat) (hneed : 15 + 2 * bc.toNat ≤ s.declLen.toNat)
      (hmark : textChar s 0 ≠ 0x3A#8) : DecodeEnds s (.error .invalidStartMarker)
  | badDigit (bc : Byte) (hcount : Spec.textPair s 1 = some bc.toNat) (hneed : 15 + 2 * bc.toNat ≤ s.declLen.toNat)
      (hmark : textChar s 0 = 0x3A#8) (hpair : ∃ k < 7 + bc.toNat, Spec.textPair s (1 + 2 * k) = none) :
      DecodeEnds s (.error .invalidHexDigit)
  | badChecksum (f : Frame) (hneed : 15 + 2 * f.packed.p0.toNat ≤ s.declLen.toNat) (hmark : textChar s 0 = 0x3A#8)
      (hread : f.ReadFrom s) (hsum : checksumOf f.packed f.payload ≠ f.checksum) :
      DecodeEnds s (.error .checksumMismatch)
  | good (f : Frame) (hneed : 15 + 2 * f.packed.p0.toNat ≤ s.declLen.toNat) (hmark : textChar s 0 = 0x3A#8)
      (hread : f.ReadFrom s) (hsum : checksumOf f.packed f.payload = f.checksum) : DecodeEnds s (.ok f)

theorem decodeEnds_decodeFrame (s : State) : DecodeEnds s (decodeFrame s) := by
  by_cases hlen : s.declLen.toNat < 15
  · rw [decodeFrame_eq, if_pos hlen]
    exact .tooShort hlen
  replace hlen := Nat.le_of_not_lt hlen
  cases hcount : parsePair s 1 with
  | error e =>
    rw [decodeFrame_eq, if_neg hlen.not_gt, hcount, parsePair_error hcount]
    exact .badCount hlen (textPair_eq_none hcount)
  | ok bc =>
    have htext := parsePair_eq_ok_iff.1 hcount
    rw [decodeFrame_of_count hlen hcount]
    split_ifs with hneed hmark
    · exact .incomplete bc hlen htext hneed
    · exact .noMarker bc htext (Nat.le_of_not_lt hneed) hmark
    replace hneed := Nat.le_of_not_lt hneed
    replace hmark := not_not.1 hmark
    cases hf : parseFrame s bc with
    | error e =>
      obtain ⟨rfl, hpair⟩ := exists_textPair_eq_none_of_parseFrame hcount hf
      exact .badDigit bc htext hneed hmark hpair
    | ok f =>
      obtain ⟨rfl, hread⟩ := readFrom_of_parseFrame hcount hf
      show DecodeEnds s f.check
      rw [Frame.check]
      split_ifs with hsum
      · exact .good f hneed hmark hread hsum
      · exact .badChecksum f hneed hmark hread hsum

theorem readFrom_of_decodeFrame {s : State} {f : Frame} (h : decodeFrame s = .ok f) : f.ReadFrom s := by
  have hends := decodeEnds_decodeFrame s
  rw [h] at hends
  cases hends
  assumption

/-! ### The checks against the spec's -/

theorem Frame.ReadFrom.count {f : Frame} {s : State} (h : f.ReadFrom s) :
    Spec.textPair s 1 = some f.packed.p0.toNat := h.pairs 0 (by omega)

theorem Frame.ReadFrom.allDigits {f : Frame} {s : State} (h : f.ReadFrom s) :
    Spec.allDigits s f.packed.p0.toNat = true := by
  rw [Spec.allDigits, List.all_eq_true]
  intro k hk
  rw [h.pairs k (List.mem_range.1 hk)]
  rfl

theorem Frame.ReadFrom.frameSum_eq_zero_iff {f : Frame} {s : State} (h : f.ReadFrom s) :
    Spec.frameSum s f.packed.p0.toNat % 256 = 0 ↔ checksumOf f.packed f.payload = f.checksum := by
  have hsum : Spec.frameSum s f.packed.p0.toNat = (f.bytes.map BitVec.toNat).sum := by
    rw [Spec.frameSum, map_toNat_eq_map_range, f.bytes_length, h.length]
    refine congrArg List.sum (List.map_congr_left fun k hk => ?_)
    rw [h.pairs k (List.mem_range.1 hk), Option.getD_some]
  rw [hsum, f.sum_bytes_eq_zero_iff]

theorem allDigits_eq_false {s : State} {bc : Nat} (h : ∃ k < 7 + bc, Spec.textPair s (1 + 2 * k) = none) :
    Spec.allDigits s bc = false := by
  obtain ⟨k, hk, hnone⟩ := h
  exact List.all_eq_false.2 ⟨k, List.mem_range.2 hk, by simp [hnone]⟩

/-- The spec's checks on a frame whose declared length suffices (42_hex_codec.md R147). -/
theorem decodeCode_of_count {s : State} {bc : Nat} (hcount : Spec.textPair s 1 = some bc)
    (hneed : 15 + 2 * bc ≤ s.declLen.toNat) :
    Spec.decodeCode s =
      if textChar s 0 ≠ 0x3A#8 then (6, 0)
      else if Spec.allDigits s bc = false then (8, 0)
      else if Spec.frameSum s bc % 256 ≠ 0 then (7, 0)
      else (0, bc) := by
  rw [Spec.decodeCode, if_neg (by omega), hcount]
  exact if_neg hneed.not_gt

/-- The spec's checks pass on a frame that is read from TEXT with its marker, length and checksum (42_hex_codec.md
R147). -/
theorem decodeCode_of_readFrom {s : State} {f : Frame} (hneed : 15 + 2 * f.packed.p0.toNat ≤ s.declLen.toNat)
    (hmark : textChar s 0 = 0x3A#8) (hread : f.ReadFrom s) (hsum : checksumOf f.packed f.payload = f.checksum) :
    Spec.decodeCode s = (0, f.packed.p0.toNat) := by
  rw [decodeCode_of_count hread.count hneed, if_neg (not_not.2 hmark), if_neg (by simp [hread.allDigits]),
    if_neg (not_not.2 (hread.frameSum_eq_zero_iff.2 hsum))]

/-- The code and byte count of an end of the checks, as the spec's arithmetic gives them. -/
def outcomeCode : Except ErrorCode Frame → Nat × Nat
  | .error e => (e.code.toNat, 0)
  | .ok f => (0, f.packed.p0.toNat)

/-- The machine's checks end as the spec's order of checks says (42_hex_codec.md R147, 60_exceptions.md R208). -/
theorem decodeCode_eq_outcomeCode (s : State) : Spec.decodeCode s = outcomeCode (decodeFrame s) := by
  generalize hr : decodeFrame s = r
  have hends : DecodeEnds s r := hr ▸ decodeEnds_decodeFrame s
  cases hends with
  | tooShort hlen =>
    rw [Spec.decodeCode, if_pos hlen]
    rfl
  | badCount hlen hcount =>
    rw [Spec.decodeCode, if_neg hlen.not_gt, hcount]
    rfl
  | incomplete bc hlen hcount hneed =>
    rw [Spec.decodeCode, if_neg hlen.not_gt, hcount]
    exact if_pos hneed
  | noMarker bc hcount hneed hmark =>
    rw [decodeCode_of_count hcount hneed, if_pos hmark]
    rfl
  | badDigit bc hcount hneed hmark hpair =>
    rw [decodeCode_of_count hcount hneed, if_neg (not_not.2 hmark), if_pos (allDigits_eq_false hpair)]
    rfl
  | badChecksum f hneed hmark hread hsum =>
    rw [decodeCode_of_count hread.count hneed, if_neg (not_not.2 hmark), if_neg (by simp [hread.allDigits]),
      if_pos (mt hread.frameSum_eq_zero_iff.1 hsum)]
    rfl
  | good f hneed hmark hread hsum => exact decodeCode_of_readFrom hneed hmark hread hsum

/-! ### What DECODE reads -/

/-- The two states hold the same first `m` characters in TEXT. -/
def SameText (m : Nat) (s t : State) : Prop := ∀ i < m, textChar s i = textChar t i

section
variable {m : Nat} {s t : State} (h : SameText m s t)
include h

theorem SameText.parsePair_eq {i : Nat} (hi : i + 2 ≤ m) : parsePair s i = parsePair t i := by
  rw [parsePair, parsePair, h i (by omega), h (i + 1) (by omega)]

theorem SameText.parsePairs_eq {i n : Nat} (hi : i + 2 * n ≤ m) : parsePairs s i n = parsePairs t i n := by
  induction n generalizing i with
  | zero => rfl
  | succ n ih => rw [parsePairs_succ, parsePairs_succ, h.parsePair_eq (by omega), ih (by omega)]

theorem SameText.parseFrame_eq {bc : Byte} (hm : 15 + 2 * bc.toNat ≤ m) : parseFrame s bc = parseFrame t bc := by
  rw [parseFrame, parseFrame, parsePacked, parsePacked, h.parsePair_eq (i := 3) (by omega),
    h.parsePair_eq (i := 5) (by omega), h.parsePair_eq (i := 7) (by omega), h.parsePair_eq (i := 9) (by omega),
    h.parsePair_eq (i := 11) (by omega), h.parsePairs_eq (by omega), h.parsePair_eq (by omega)]

end

/-- DECODE's checks read nothing at or beyond the frame's length (42_hex_codec.md R148). -/
theorem decodeFrame_congr {s t : State} {bc : Byte} (hcount : parsePair s 1 = .ok bc)
    (hs : 15 + 2 * bc.toNat ≤ s.declLen.toNat) (ht : 15 + 2 * bc.toNat ≤ t.declLen.toNat)
    (h : SameText (15 + 2 * bc.toNat) s t) : decodeFrame s = decodeFrame t := by
  have hcount' : parsePair t 1 = .ok bc := h.parsePair_eq (i := 1) (by omega) ▸ hcount
  rw [decodeFrame_of_count (by omega) hcount, decodeFrame_of_count (by omega) hcount', if_neg hs.not_gt,
    if_neg ht.not_gt, h 0 (by omega), h.parseFrame_eq le_rfl]

/-- TEXT is no part of the message state (00_scope.md R12). -/
theorem textAddr_not_message (i : Nat) : (isPackedByte (textAddr i) || isPayloadByte (textAddr i)) = false := by
  rw [Bool.or_eq_false_iff, isPackedByte, isPayloadByte, decide_eq_false_iff_not, decide_eq_false_iff_not, textAddr]
  omega

/-- The clear at the start of DECODE leaves the text alone (42_hex_codec.md R149). -/
theorem textChar_clearMessage (s : State) (i : Nat) : textChar (clearMessage s) i = textChar s i := by
  rw [textChar, loadByte_clearMessage, textAddr_not_message]
  rfl

/-- The clear before the checks of DECODE changes nothing that they read (42_hex_codec.md R147, R149). -/
theorem decodeFrame_clearMessage (s : State) : decodeFrame (clearMessage s) = decodeFrame s := by
  have htext (m : Nat) : SameText m (clearMessage s) s := fun i _ => textChar_clearMessage s i
  by_cases hlen : s.declLen.toNat < 15
  · rw [decodeFrame_eq, decodeFrame_eq, clearMessage_declLen, if_pos hlen, if_pos hlen]
  replace hlen := Nat.le_of_not_lt hlen
  have hpair := (htext 3).parsePair_eq (i := 1) le_rfl
  cases hcount : parsePair s 1 with
  | error e =>
    rw [decodeFrame_eq, decodeFrame_eq, clearMessage_declLen, if_neg hlen.not_gt, if_neg hlen.not_gt, hpair, hcount]
  | ok bc =>
    rw [decodeFrame_of_count hlen hcount, decodeFrame_of_count (by simpa using hlen) (hpair.trans hcount),
      clearMessage_declLen, textChar_clearMessage, (htext _).parseFrame_eq le_rfl]

/-! ### What DECODE writes -/

theorem loadByte_ended (s : State) (e : BitVec 4) (r : Half) (a : Nat) : loadByte (s.ended e r) a = loadByte s a := rfl

/-- What differs only in the message state and the buffers still does at a command's end (60_exceptions.md R205). -/
theorem ended_eq_of_frame {s t : State} (h : t = { s with fields := t.fields, checksum := t.checksum, mem := t.mem })
    (e : BitVec 4) (r : Half) :
    t.ended e r = { s.ended (t.ended e r).err (t.ended e r).result with
      mem := (t.ended e r).mem, fields := (t.ended e r).fields, checksum := (t.ended e r).checksum } :=
  congrArg (fun u => u.ended e r) h

/-- After the clear the whole of PACKED reads 0 (40_packer.md R118; 10_state.md R49). -/
theorem loadByte_clearMessage_packedAddr (s : State) {k : Nat} (hk : k < 8) :
    loadByte (clearMessage s) (packedAddr k) = 0 := by
  by_cases hpacked : k < 6
  · rw [loadByte_clearMessage, (isPackedByte_iff _).2 (by rw [packedAddr]; omega)]
    rfl
  · refine loadByte_of_not_storage _ (Bool.eq_false_iff.2 fun hstorage => ?_)
    rw [isStorage_iff, packedAddr] at hstorage
    omega

theorem loadByte_clearMessage_payloadAddr (s : State) {j : Nat} (hj : j < 255) :
    loadByte (clearMessage s) (payloadAddr j) = 0 := by
  rw [loadByte_clearMessage, (isPayloadByte_iff _).2 (by rw [payloadAddr]; omega), Bool.or_true]
  rfl

theorem Frame.ReadFrom.payload_length_le {f : Frame} {s : State} (h : f.ReadFrom s) : f.payload.length ≤ 255 :=
  h.length.le.trans (Nat.le_of_lt_succ f.packed.p0.isLt)

section
variable {f : Frame} (hf : f.payload.length ≤ 255) (s : State)
include hf

theorem loadByte_writeMessage_packedAddr {k : Nat} (hk : k < 6) :
    loadByte (writeMessage f (clearMessage s)) (packedAddr k) = f.packed.toList.getD k 0 := by
  rw [loadByte_writeMessage_cases f s hf, packedAddr, if_pos (by omega), Nat.add_sub_cancel_left]

/-- PAYLOAD holds the frame's payload and 0 after it (42_hex_codec.md R147). -/
theorem loadByte_writeMessage_payloadAddr {j : Nat} (hj : j < 255) :
    loadByte (writeMessage f (clearMessage s)) (payloadAddr j) = f.payload.getD j 0 := by
  rw [loadByte_writeMessage_cases f s hf, payloadAddr, if_neg (by omega)]
  by_cases hlen : j < f.payload.length
  · rw [if_pos (by omega), Nat.add_sub_cancel_left]
  · rw [if_neg (by omega), if_pos (by omega), List.getD_eq_default _ _ (Nat.le_of_not_lt hlen)]

end

/-! ### DECODE -/

/-- A failed DECODE ends over the cleared message (42_hex_codec.md R149). -/
theorem exec_decode_of_error {s : State} {e : ErrorCode} (h : decodeFrame s = .error e) :
    exec .decode s = .next ((clearMessage s).ended e.code 0) := by
  rcases exec_decode_cases s with ⟨e', he, hexec⟩ | ⟨f, hf, -⟩
  · rw [decodeFrame_clearMessage, h] at he
    cases he
    rw [hexec, complete_value_zero]
  · rw [decodeFrame_clearMessage, h] at hf
    cases hf

/-- A successful DECODE ends with the frame's message written over the cleared one (42_hex_codec.md R147). -/
theorem exec_decode_of_ok {s : State} {f : Frame} (h : decodeFrame s = .ok f) :
    exec .decode s =
      .next ((writeMessage f (clearMessage s)).ended 0 (BitVec.ofNat 16 (15 + 2 * f.packed.p0.toNat))) := by
  rcases exec_decode_cases s with ⟨e, he, -⟩ | ⟨f', hf, hexec⟩
  · rw [decodeFrame_clearMessage, h] at he
    cases he
  · rw [decodeFrame_clearMessage, h] at hf
    cases hf
    rw [hexec, complete_success, frameLen, Config.minFrameLen]

theorem ErrorCode.code_toNat_ne_zero (e : ErrorCode) : e.code.toNat ≠ 0 := by
  cases e <;> decide

/-- Settles O34: the machine's checks end as the spec's. -/
theorem decodeRecordsFirstError : Obligations.DecodeRecordsFirstError := by
  intro s
  rw [decodeCode_eq_outcomeCode]
  cases hr : decodeFrame s with
  | error e =>
    exact ⟨_, exec_decode_of_error hr, rfl, (if_neg e.code_toNat_ne_zero).symm,
      ended_eq_of_frame (writesWithin_clearMessage (.inl rfl) s).frame _ _⟩
  | ok f =>
    exact ⟨_, exec_decode_of_ok hr, rfl, frameLength_toNat (Nat.le_of_lt_succ f.packed.p0.isLt),
      ended_eq_of_frame (writesWithin_decode (readFrom_of_decodeFrame hr).payload_length_le).frame _ _⟩

/-- Where the spec's checks pass, the machine has read a frame with that byte count (42_hex_codec.md R147). -/
theorem exists_decodeFrame_of_decodeCode {s : State} {bc : Nat} (h : Spec.decodeCode s = (0, bc)) :
    ∃ f, decodeFrame s = .ok f ∧ f.packed.p0.toNat = bc := by
  rw [decodeCode_eq_outcomeCode] at h
  cases hr : decodeFrame s with
  | error e =>
    rw [hr] at h
    exact absurd (congrArg Prod.fst h) e.code_toNat_ne_zero
  | ok f =>
    rw [hr] at h
    exact ⟨f, rfl, congrArg Prod.snd h⟩

/-- Only the six packed bytes enter the fields (40_packer.md R113). -/
theorem fieldsOf_congr {p q : Nat → Nat} {f : Fields} (hpq : ∀ k < 6, p k = q k) (h : Spec.FieldsOf p f) :
    Spec.FieldsOf q f := by
  rw [Spec.FieldsOf] at h ⊢
  rwa [← hpq 0 (by decide), ← hpq 1 (by decide), ← hpq 2 (by decide), ← hpq 3 (by decide), ← hpq 4 (by decide),
    ← hpq 5 (by decide)]

/-- Settles O35: what is written is the frame, whose bytes are the pairs in TEXT. -/
theorem decodeWritesMessage : Obligations.DecodeWritesMessage := by
  intro s bc hcode
  obtain ⟨f, hf, rfl⟩ := exists_decodeFrame_of_decodeCode hcode
  have hread := readFrom_of_decodeFrame hf
  have hlen := hread.length
  have hle := hread.payload_length_le
  have hwrites := writesWithin_decode (s := s) hle
  refine ⟨_, exec_decode_of_ok hf, ended_eq_of_frame hwrites.frame _ _, fun k hk => ?_, fun j hj => ?_,
    fun j hj hj' => ?_, ?_, ?_, fun a hp hq => ?_⟩
  · rw [loadByte_ended, loadByte_writeMessage_packedAddr hle s hk, hread.pairs k (by omega), f.bytes_getD_packed hk]
  · rw [loadByte_ended, loadByte_writeMessage_payloadAddr hle s (by omega),
      show 13 + 2 * j = 1 + 2 * (6 + j) by omega, hread.pairs _ (by omega), f.bytes_getD_payload (by omega)]
  · rw [loadByte_ended, loadByte_writeMessage_payloadAddr hle s hj', List.getD_eq_default _ _ (by omega)]
  · rw [show 13 + 2 * f.packed.p0.toNat = 1 + 2 * (6 + f.payload.length) by omega, hread.pairs _ (by omega),
      f.bytes_getD_checksum]
    rfl
  · refine fieldsOf_congr (fun k hk => ?_) (unpackBytes_fieldsOf f.packed)
    rw [loadByte_ended, loadByte_writeMessage_packedAddr hle s hk]
  · refine hwrites.bytes a ?_
    simp [writesByte, isPackedByte, isPayloadByte, hp, hq]

/-- Settles O36: an error ends over the cleared message, and no text is in DECODE's write set. -/
theorem decodeErrorLeavesZeroMessage : Obligations.DecodeErrorLeavesZeroMessage := by
  intro s t ht
  refine ⟨fun herr => ?_, ?_⟩
  · cases hr : decodeFrame s with
    | error e =>
      obtain rfl := Host.Outcome.next.inj ((exec_decode_of_error hr).symm.trans ht)
      exact ⟨clearMessage_fields s, clearMessage_checksum s,
        fun k hk => (loadByte_ended _ _ _ _).trans (loadByte_clearMessage_packedAddr s hk),
        fun j hj => (loadByte_ended _ _ _ _).trans (loadByte_clearMessage_payloadAddr s hj)⟩
    | ok f =>
      obtain rfl := Host.Outcome.next.inj ((exec_decode_of_ok hr).symm.trans ht)
      exact absurd rfl herr
  · obtain ⟨e, -, r, u, hexec, hwrites⟩ := exec_writesWithin .decode s
    obtain rfl := Host.Outcome.next.inj (hexec.symm.trans ht)
    refine ⟨fun i _ => hwrites.bytes _ (textAddr_not_message i), ?_, ?_⟩
    · rw [hwrites.frame]
      rfl
    · rw [hwrites.frame]
      rfl

/-- Settles O37: the checks see the same frame, and what DECODE leaves of the message comes from the frame alone. -/
theorem decodeIgnoresTextBeyondFrame : Obligations.DecodeIgnoresTextBeyondFrame := by
  intro s₁ s₂ bc hcount hlen₁ hlen₂ htext
  obtain ⟨b, hb, rfl⟩ := exists_parsePair_of_textPair hcount
  have hframe := decodeFrame_congr hb hlen₁ hlen₂ htext
  cases hr : decodeFrame s₁ with
  | error e =>
    refine ⟨_, _, exec_decode_of_error hr, exec_decode_of_error (hframe ▸ hr), rfl, rfl, rfl, rfl, fun k hk => ?_,
      fun j hj => ?_⟩
    · simp only [loadByte_ended, loadByte_clearMessage_packedAddr _ (show k < 8 by omega)]
    · simp only [loadByte_ended, loadByte_clearMessage_payloadAddr _ hj]
  | ok f =>
    have hle := (readFrom_of_decodeFrame hr).payload_length_le
    refine ⟨_, _, exec_decode_of_ok hr, exec_decode_of_ok (hframe ▸ hr), rfl, rfl, rfl, rfl, fun k hk => ?_,
      fun j hj => ?_⟩
    · simp only [loadByte_ended, loadByte_writeMessage_packedAddr hle _ hk]
    · simp only [loadByte_ended, loadByte_writeMessage_payloadAddr hle _ hj]

/-! ### The round trip -/

/-- What reads as the pair at byte `k` of the frame is that byte. -/
theorem Frame.ReadFrom.eq_of_textPair {f : Frame} {s : State} (h : f.ReadFrom s) {i k : Nat} {b : Byte}
    (hb : some b.toNat = Spec.textPair s i) (hi : i = 1 + 2 * k) (hk : k < 7 + f.packed.p0.toNat) :
    b = f.bytes.getD k 0 := by
  rw [hi, h.pairs k hk, Option.some.injEq, BitVec.toNat_inj] at hb
  exact hb

section
variable {s : State} (h : s.fields.byteCount.toNat ≤ 255)
include h

theorem messageFrame_count : (messageFrame s).packed.p0.toNat = s.fields.byteCount.toNat :=
  (packBytes_toNat s.fields 0).trans (Nat.mod_eq_of_lt (by omega))

/-- The text that ENCODE wrote holds the message's frame, whatever else the state holds (42_hex_codec.md R153). -/
theorem messageFrame_readFrom {t : State} (htext : ∀ i, textChar t i = textChar (encoded s) i) :
    (messageFrame s).ReadFrom t where
  length := by rw [messageFrame_payload_length h, messageFrame_count h]
  pairs k hk := by
    have hlen := messageFrame_payload_length h
    rw [messageFrame_count h] at hk
    rw [Spec.textPair, htext, htext]
    exact textPair_writeFrame _ _ s (by omega) (by omega)

/-- DECODE passes every check on the frame that ENCODE wrote (42_hex_codec.md R153). -/
theorem decodeCode_of_encoded {t : State} (htext : ∀ i, textChar t i = textChar (encoded s) i)
    (hneed : 15 + 2 * s.fields.byteCount.toNat ≤ t.declLen.toNat) :
    Spec.decodeCode t = (0, s.fields.byteCount.toNat) := by
  have hlen := messageFrame_payload_length h
  have hmark : textChar (encoded s) 0 = 0x3A#8 := textChar_writeFrame _ _ s (by omega) (by omega)
  rw [← messageFrame_count h] at hneed ⊢
  exact decodeCode_of_readFrom hneed ((htext 0).trans hmark) (messageFrame_readFrom h htext) rfl

end

/-- Settles O38: DECODE writes the bytes of the frame that ENCODE wrote, and these are the message's. -/
theorem encodeThenDecodeRoundTrips : Obligations.EncodeThenDecodeRoundTrips := by
  intro s h
  refine ⟨_, exec_encode_eq_encoded h, fun len hlen => ?_⟩
  have hneed : 15 + 2 * s.fields.byteCount.toNat ≤ len.toNat := (frameLength_toNat h).symm.le.trans hlen
  have htext : ∀ i, textChar { (encoded s).ended 0 (BitVec.ofNat 16 (15 + 2 * s.fields.byteCount.toNat)) with
      declLen := len } i = textChar (encoded s) i := fun _ => rfl
  obtain ⟨u, hexec, hu, hpacked, hpayload, hrest, hchecksum, hfields, -⟩ :=
    decodeWritesMessage _ _ (decodeCode_of_encoded h htext hneed)
  have hread := messageFrame_readFrom h htext
  have hcount := messageFrame_count h
  obtain ⟨hbpacked, hbpayload, hbchecksum⟩ := messageFrame_bytes_toNat h
  have hmasked : Spec.Masked s.fields u.fields := by
    refine masked_of_fieldsOf_packedByte (fieldsOf_congr (fun k hk => ?_) hfields)
    rw [hread.eq_of_textPair (hpacked k hk) rfl (by omega), hbpacked k hk]
  refine ⟨u, hexec, congrArg State.err hu, (congrArg State.result hu).trans rfl, hmasked,
    eq_of_masked_of_withinWidths hmasked, ?_, fun j hj => BitVec.eq_of_toNat_eq ?_, hrest⟩
  · refine (hread.eq_of_textPair (k := 6 + s.fields.byteCount.toNat) hchecksum (by omega) (by omega)).trans ?_
    rw [← messageFrame_payload_length h, Frame.bytes_getD_checksum]
    rfl
  · rw [hread.eq_of_textPair (k := 6 + j) (hpayload j hj) (by omega) (by omega), hbpayload j hj]

end Sys2Proof.Machine
end

section
/-! PROOFS. The frame sizer (spec/43_frame_sizer.md): how FRAMELEN ends, and its result as the length that DECODE
needs. -/

namespace Sys2Proof.Machine

/-- Settles O42: the machine's three ends of FRAMELEN, with the pair at TEXT[1] on plain numbers. -/
theorem framelenPredictsLength : Obligations.FramelenPredictsLength := by
  refine ⟨decode_eq_ok_iff.2 rfl, fun s => ?_⟩
  rcases exec_framelen_cases s with ⟨hshort, hexec⟩ | ⟨hlen, hbad, hexec⟩ | ⟨hlen, b, hb, hexec⟩
  · rw [complete_value_zero] at hexec
    exact ⟨fun _ => hexec, fun hlen => absurd hshort hlen.not_gt, fun _ hlen => absurd hshort hlen.not_gt⟩
  · rw [complete_value_zero] at hexec
    refine ⟨fun hshort => absurd hshort hlen.not_gt, fun _ _ => hexec, fun bc _ hcount => ?_⟩
    rw [textPair_eq_none hbad] at hcount
    cases hcount
  · have hpair := parsePair_eq_ok_iff.1 hb
    rw [complete_success] at hexec
    refine ⟨fun hshort => absurd hshort hlen.not_gt, fun _ hnone => ?_, fun bc _ hcount => ?_⟩
    · rw [hpair] at hnone
      cases hnone
    · obtain rfl : b.toNat = bc := Option.some.inj (hpair.symm.trans hcount)
      exact hexec

/-- FRAMELEN succeeds only on a byte count in TEXT[1..2], and its RESULT is the length of the frame with that count
(43_frame_sizer.md R172). -/
theorem exists_count_of_exec_framelen {s t : State} (ht : exec .framelen s = .next t) (herr : t.err = 0) :
    ∃ bc, Spec.textPair s 1 = some bc ∧ t.result.toNat = 15 + 2 * bc := by
  rcases exec_framelen_cases s with ⟨-, hexec⟩ | ⟨-, -, hexec⟩ | ⟨-, b, hb, hexec⟩
  all_goals obtain rfl := Host.Outcome.next.inj (hexec.symm.trans ht)
  · cases herr
  · cases herr
  · exact ⟨b.toNat, parsePair_eq_ok_iff.1 hb, frameLength_toNat (Nat.le_of_lt_succ b.isLt)⟩

/-- DECODE's code where TEXT[1..2] holds a byte count, by the declared length: its two length checks are against 15
and the frame's length, and no later check has their codes (42_hex_codec.md R147). -/
theorem decodeCode_cases_of_count {s : State} {bc : Nat} (hcount : Spec.textPair s 1 = some bc) :
    (s.declLen.toNat < 15 ∧ Spec.decodeCode s = (4, 0)) ∨
    (15 ≤ s.declLen.toNat ∧ s.declLen.toNat < 15 + 2 * bc ∧ Spec.decodeCode s = (5, 0)) ∨
    (15 + 2 * bc ≤ s.declLen.toNat ∧
      ((∃ e, 6 ≤ e ∧ Spec.decodeCode s = (e, 0)) ∨ Spec.decodeCode s = (0, bc))) := by
  by_cases hshort : s.declLen.toNat < 15
  · exact .inl ⟨hshort, by rw [Spec.decodeCode, if_pos hshort]⟩
  have hlen := Nat.le_of_not_lt hshort
  by_cases hneed : s.declLen.toNat < 15 + 2 * bc
  · refine .inr (.inl ⟨hlen, hneed, ?_⟩)
    rw [Spec.decodeCode, if_neg hshort, hcount]
    exact if_pos hneed
  replace hneed := Nat.le_of_not_lt hneed
  refine .inr (.inr ⟨hneed, ?_⟩)
  rw [decodeCode_of_count hcount hneed]
  split_ifs
  · exact .inl ⟨6, by decide, rfl⟩
  · exact .inl ⟨8, by decide, rfl⟩
  · exact .inl ⟨7, by decide, rfl⟩
  · exact .inr rfl

/-- Settles O43: DECODE compares the declared length with FRAMELEN's result, and returns it where every check passes. -/
theorem framelenIsDecodeNeed : Obligations.FramelenIsDecodeNeed := by
  intro s t ht herr len
  obtain ⟨bc, hcount, hresult⟩ := exists_count_of_exec_framelen ht herr
  obtain ⟨u, hexec, hcode, hvalue, -⟩ := decodeRecordsFirstError { s with declLen := len }
  have hcases := decodeCode_cases_of_count (s := { s with declLen := len }) hcount
  dsimp only at hcases
  refine ⟨u, hexec, ?_⟩
  simp only [ne_eq, ← BitVec.toNat_inj, BitVec.ofNat_eq_ofNat, BitVec.toNat_ofNat, Nat.reducePow, Nat.reduceMod, hresult,
    hcode]
  rcases hcases with ⟨hlen, h⟩ | ⟨hlen, hneed, h⟩ | ⟨hneed, ⟨e, he, h⟩ | h⟩
  · rw [h]
    omega
  · rw [h]
    omega
  · rw [h]
    omega
  · rw [h, if_pos rfl] at hvalue
    rw [h]
    omega

end Sys2Proof.Machine
end

section
/-! PROOFS. The control family (spec/44_control.md): NOP, and the end of an illegal word. -/

namespace Sys2Proof.Machine

/-- A word that the decoder rejects, for whichever reason, is performed as the raise of IllegalCommand
(44_control.md R181). -/
theorem performPending_of_decode_error {s : State} {e : Illegal} (h : decode s.pending = .error e) :
    performPending s = .next (s.ended 9 0) := by
  unfold performPending
  rw [h, ← complete_value_zero]
  rfl

/-- Settles O7: the decoder rejects the words that are not legal, and the perform step raises on every rejection. -/
theorem illegalWordCompletesWithIllegalCommand : Obligations.IllegalWordCompletesWithIllegalCommand := by
  intro s hnext hillegal
  obtain ⟨e, he⟩ := (exists_decode_error_iff s.pending).2 (ne_true_of_eq_false hillegal)
  rw [step_of_performsNext hnext, performPending_of_decode_error he]

/-- Settles O19: NOP is nothing but its completion with the value 0. -/
theorem nopCompletesWithoutEffect : Obligations.NopCompletesWithoutEffect := by
  refine ⟨decode_eq_ok_iff.2 rfl, fun s => ?_⟩
  rw [exec_nop, complete_success]

end Sys2Proof.Machine
end

section
/-! PROOFS. Exceptions and the interrupt (spec/60_exceptions.md): the codes a command records, the steps that answer a
next state, the completion of every accepted command, and the interrupt. -/

namespace Sys2Proof.Machine

/-! ### Error codes -/

/-- Settles O16: a command does nothing but write within its write set and complete with 0 or a code of its row, and a
completion with an error has RESULT 0. -/
theorem commandsRecordOnlyTheirCodes : Obligations.CommandsRecordOnlyTheirCodes := by
  refine ⟨fun i s => ?_, fun s e he => performPending_of_decode_error he⟩
  obtain ⟨e, hcode, r, t, hexec, -⟩ := exec_writesWithin i s
  exact ⟨complete e r t, hexec, rfl, rfl, hcode, fun herr => if_neg herr⟩

/-! ### Every step answers -/

/-- The perform step completes, whatever word is in PENDING, and leaves IE alone (60_exceptions.md R200, R205). -/
theorem performPending_completes (s : State) :
    ∃ e r t, performPending s = .next (complete e r t) ∧ t.ie = s.ie := by
  rcases performPending_cases s with ⟨i, hi⟩ | hillegal
  · obtain ⟨e, r, t, hexec, hie, -⟩ := exec_completes i s
    exact ⟨e, r, t, hi.trans hexec, hie⟩
  · exact ⟨9, 0, s, hillegal, rfl⟩

/-- The perform step is next, or an input is, or the block is idle with nothing to serve. -/
theorem turn_cases (s : State) :
    PerformsNext s ∨ (∃ op rest, ServesNext op rest s) ∨ (s.busy = false ∧ s.inputs = []) := by
  cases hb : s.busy with
  | false =>
    cases hi : s.inputs with
    | nil => exact .inr (.inr ⟨rfl, rfl⟩)
    | cons op rest => exact .inr (.inl ⟨op, rest, hi, .inl hb⟩)
  | true =>
    by_cases hw : s.wait = 0
    · exact .inl ⟨hb, .inl hw⟩
    cases hi : s.inputs with
    | nil => exact .inl ⟨hb, .inr hi⟩
    | cons op rest => exact .inr (.inl ⟨op, rest, hi, .inr hw⟩)

/-- An idle block with nothing to serve stays as it is (70_reset_and_hazards.md R243). -/
theorem step_of_idle {s : State} (hb : s.busy = false) (hi : s.inputs = []) : step s = .next s := by
  simp [step, nextAgent, hb, hi]

/-- Settles O10: whoever's turn it is, a perform step completes, an input is served, or nothing happens. -/
theorem everyStepAnswersNext : Obligations.EveryStepAnswersNext := by
  intro s
  rcases turn_cases s with h | ⟨op, rest, h⟩ | ⟨hb, hi⟩
  · obtain ⟨e, r, t, hperform, -⟩ := performPending_completes s
    exact ⟨_, (step_of_performsNext h).trans hperform⟩
  · exact ⟨_, step_of_servesNext h⟩
  · exact ⟨s, step_of_idle hb hi⟩

/-! ### Every accepted command completes -/

/-- A run whose first step answers `t` goes on from `t`. -/
theorem run_succ_of_step {M : Host.Core} {s t : M.State} (h : M.step s = .next t) (k : Nat) :
    M.run (k + 1) s = M.run k t := by
  rw [Host.Core.run, h]

theorem writeTarget_inputs (t : Target) (v : Word) (s : State) : (writeTarget t v s).inputs = s.inputs := by
  cases t with
  | reg r => cases r <;> rfl
  | byte a => rfl
  | word a => rfl

/-- Serving an input queues nothing new: at most that input again, as POLL does (30_encoding.md R97). -/
theorem serve_inputs_subset (op : HostOp) (s : State) : (serve op s).inputs ⊆ op :: s.inputs := by
  cases op with
  | read a n =>
    obtain ⟨r, d, hread⟩ := serveRead_cases a n s
    rw [serve, hread]
    exact List.subset_cons_self _ _
  | write a n v =>
    have hsame : (serveWrite a n v s).inputs = s.inputs := by
      rcases serveWrite_cases a n v s with hw | hw | hw | ⟨t, -, hw⟩ <;> rw [hw]
      · rfl
      · rfl
      · rfl
      · exact writeTarget_inputs t v s
    rw [serve, hsame]
    exact List.subset_cons_self _ _
  | poll =>
    rw [serve, servePoll_eq]
    show (if s.busy then HostOp.poll :: s.inputs else s.inputs) ⊆ HostOp.poll :: s.inputs
    split_ifs
    · exact List.Subset.refl _
    · exact List.subset_cons_self _ _
  | reset => exact List.subset_cons_self _ _

/-- An input served while BUSY, but for a reset, leaves the command in flight and lowers the wait by one (20_memory.md
R76; log entry 2). -/
theorem step_serve_busy {s : State} {op : HostOp} {rest : List HostOp} (hb : s.busy = true)
    (hreset : .reset ∉ s.inputs) (h : ServesNext op rest s) :
    ∃ t, step s = .next t ∧ t.busy = true ∧ t.wait + 1 = s.wait ∧ .reset ∉ t.inputs := by
  have hwait : s.wait ≠ 0 := h.2.resolve_left (by simp [hb])
  rw [h.1] at hreset
  have hop : op ≠ .reset := fun heq => hreset (heq ▸ List.mem_cons_self)
  have hbusy : (s.afterTaking rest).busy = true := hb
  have hsame := sameCommand_serve hbusy hop
  refine ⟨_, step_of_servesNext h, ?_, ?_, fun hmem => hreset (serve_inputs_subset op _ hmem)⟩
  · exact (congrArg State.busy hsame).trans hb
  · have hw : (serve op (s.afterTaking rest)).wait = s.wait - 1 := congrArg State.wait hsame
    omega

/-- A run of one step performs the command in flight, where that is next, and completes it. -/
theorem run_one_of_performsNext {s : State} (h : PerformsNext s) :
    ∃ t, Host.Core.run Sys2Proof.core 1 s = .next t ∧ t.busy = false ∧ t.done = true := by
  obtain ⟨e, r, u, hperform, -⟩ := performPending_completes s
  exact ⟨complete e r u, run_succ_of_step (M := Sys2Proof.core) ((step_of_performsNext h).trans hperform) 0, rfl, rfl⟩

/-- Settles O11, by induction on the wait: either the engine performs the command now, or an input is served and the
wait is lower by one. -/
theorem everyAcceptedCommandCompletes : Obligations.EveryAcceptedCommandCompletes := by
  intro s hb hreset
  induction hwait : s.wait generalizing s with
  | zero => exact ⟨1, Nat.le_refl 1, run_one_of_performsNext ⟨hb, .inl hwait⟩⟩
  | succ n ih =>
    rcases turn_cases s with hperforms | ⟨op, rest, hserves⟩ | ⟨hidle, -⟩
    · exact ⟨1, by omega, run_one_of_performsNext hperforms⟩
    · obtain ⟨t, hstep, htb, htw, htr⟩ := step_serve_busy hb hreset hserves
      obtain ⟨k, hk, u, hrun, hcompleted⟩ := ih t htb htr (by omega)
      exact ⟨k + 1, by omega, u, (run_succ_of_step (M := Sys2Proof.core) hstep k).trans hrun, hcompleted⟩
    · simp [hb] at hidle

/-! ### The interrupt -/

/-- A step that answers a next state answers one alone. -/
theorem next_unique {s t u : State} (h : step s = .next t) (h' : step s = .next u) : t = u :=
  Host.Outcome.next.inj (h.symm.trans h')

/-- A write of CTRL or STATUS takes effect, idle or BUSY (70_reset_and_hazards.md R245). -/
theorem step_write_writableWhileBusy {s : State} {a : Nat} {v : Word} {rest : List HostOp} {r : Reg}
    (h : ServesNext (.write a 4 v) rest s) (hr : Reg.ofOffset a = some r)
    (hw : writableWhileBusy (.reg r) = true) :
    step s = .next (respond okayWrite (writeReg r v (s.afterTaking rest))) := by
  obtain ⟨ht, ha⟩ := target_of_reg hr
  rw [step_of_servesNext h, serve, serveWrite_okay v ha ht (.inr hw)]
  rfl

/-- Without DONE there is no interrupt (10_state.md R55). -/
theorem irq_of_not_done {s : State} (h : s.done = false) : irq s = false := by
  rw [irq, h, Bool.false_and]

/-- Settles O18: a completion sets DONE and keeps IE; the STATUS write, the acceptance and the reset leave DONE at 0;
the CTRL write sets IE alone. -/
theorem interruptFollowsDoneAndEnable : Obligations.InterruptFollowsDoneAndEnable := by
  refine ⟨fun s t h hstep => ?completion, fun s t rest v h hv hstep => ?acknowledge,
    fun s t rest w h hb hstep => ?acceptance, fun s t rest h hstep => ?reset, fun s t rest v h hstep => ?ctrl⟩
  case completion =>
    obtain ⟨e, r, u, hperform, hie⟩ := performPending_completes s
    obtain rfl := next_unique hstep ((step_of_performsNext h).trans hperform)
    exact ⟨hie, rfl⟩
  case acknowledge =>
    obtain rfl := next_unique hstep (step_write_writableWhileBusy h (Reg.ofOffset_offset .status) rfl)
    exact irq_of_not_done (by simp [writeReg, hv])
  case acceptance =>
    obtain rfl := next_unique hstep (cmdWriteAcceptsCommand s rest w h hb)
    exact irq_of_not_done rfl
  case reset =>
    obtain rfl := next_unique hstep (step_of_servesNext h)
    exact irq_of_not_done rfl
  case ctrl =>
    obtain rfl := next_unique hstep (step_write_writableWhileBusy h (Reg.ofOffset_offset .ctrl) rfl)
    exact ⟨rfl, rfl⟩

end Sys2Proof.Machine
end

section
/-! PROOFS. Reset, and the hazards of a command in flight (spec/70_reset_and_hazards.md): what the reset event leaves,
and what writes and reads do while BUSY. -/

namespace Sys2Proof.Machine

/-! ### Reset -/

/-- The step of the reset event, idle or BUSY (70_reset_and_hazards.md R240, R242). -/
theorem step_of_reset {s : State} {rest : List HostOp} (h : ServesNext .reset rest s) :
    step s = .next (resetBlock (s.afterTaking rest)) :=
  step_of_servesNext h

/-- The reset values of 10_state.md R22: the three constants, and 0 elsewhere. -/
theorem readReg_reset (r : Reg) : readReg State.reset r = Spec.resetValue r := by
  cases r <;> decide

/-- A reset leaves every register at its reset value: what it keeps of the state is in no register. -/
theorem readReg_resetBlock (s : State) (r : Reg) : readReg (resetBlock s) r = Spec.resetValue r := by
  rw [← readReg_reset]
  cases r <;> rfl

/-- PACKED reads 0 after a reset, its two bytes without storage included (10_state.md R49). -/
theorem loadByte_resetBlock_packedAddr (s : State) {i : Nat} (hi : i < 8) :
    loadByte (resetBlock s) (packedAddr i) = 0 := by
  have hfree : (isPayloadByte (packedAddr i) || isTextByte (packedAddr i)) = false := by
    rw [← Bool.not_eq_true, Bool.or_eq_true, isPayloadByte_iff, isTextByte_iff, packedAddr]
    omega
  rw [loadByte_resetBlock, hfree]
  rfl

/-- Settles O14. -/
theorem resetEventSetsResetValues : Obligations.ResetEventSetsResetValues := by
  intro s rest h
  exact ⟨_, step_of_reset h, readReg_resetBlock _, rfl, fun _ hi => loadByte_resetBlock_packedAddr _ hi, rfl, rfl⟩

/-- Settles O15: the bytes of PAYLOAD and TEXT with storage are free after a reset, and PAYLOAD[255] has none. -/
theorem resetEventRedrawsBuffers : Obligations.ResetEventRedrawsBuffers := by
  intro s rest h
  refine ⟨_, step_of_reset h, loadByte_of_not_storage _ rfl, fun j hj => ?_, fun i hi => ?_⟩
  · have hpayload : isPayloadByte (payloadAddr j) = true := by
      rw [isPayloadByte_iff, payloadAddr]
      omega
    rw [loadByte_resetBlock, hpayload]
    rfl
  · have htext : isTextByte (textAddr i) = true := by
      rw [isTextByte_iff, textAddr]
      omega
    rw [loadByte_resetBlock, htext, Bool.or_true]
    rfl

/-- Settles O13. -/
theorem resetStateSatisfiesInv : Obligations.ResetStateSatisfiesInv :=
  inv_reset

/-- Settles O9. -/
theorem idleBlockStaysIdle : Obligations.IdleBlockStaysIdle := by
  intro s hb hi
  exact step_of_idle hb hi

/-! ### Writes while BUSY -/

/-- Settles O45: a target other than CTRL and STATUS drops the write, those two take it, and a refused access has no
target. -/
theorem busyWritesFollowHazardRule : Obligations.BusyWritesFollowHazardRule := by
  intro s a n v rest h hb ha
  refine ⟨fun hp hctrl hstatus => ?dropped, ?ctrl, ?status, fun hp => ?refused⟩
  case dropped =>
    obtain ⟨t, ht⟩ : ∃ t, target a n = some t := Option.isSome_iff_exists.1 ((target_isSome n ha).trans hp)
    have hbusy : (s.afterTaking rest).busy = true := hb
    rw [step_of_servesNext h, serve,
      serveWrite_dropped v ha ht hbusy (writableWhileBusy_eq_false ha hctrl hstatus ht)]
    rfl
  case ctrl =>
    rintro rfl rfl
    exact step_write_writableWhileBusy h (Reg.ofOffset_offset .ctrl) rfl
  case status =>
    rintro rfl rfl
    exact step_write_writableWhileBusy h (Reg.ofOffset_offset .status) rfl
  case refused => exact (errorAccessChangesNothing s a n rest ha hp).2 v h

/-! ### Reads while BUSY -/

/-- Taking an input off the queue changes nothing that a read shows, whatever the draw. -/
theorem shownData_afterTaking (s : State) (rest : List HostOp) (d : Word) (t : Target) :
    shownData (s.afterTaking rest) d t = shownData s d t := by
  cases t with
  | reg r =>
    have hread : readReg (s.afterTaking rest) r = readReg s r := readTarget_afterTaking s rest (.reg r)
    rw [shownData, shownData, hread]
    rfl
  | byte a => rfl
  | word a => rfl

theorem targetUnspecified_afterTaking (s : State) (rest : List HostOp) (t : Target) :
    targetUnspecified (s.afterTaking rest) t = targetUnspecified s t := by
  cases t <;> rfl

/-- Where nothing of the target is unspecified, a read shows what the target holds, and no part of the draw. -/
theorem shownData_of_not_unspecified {s : State} {t : Target} (h : targetUnspecified s t = false) (d : Word) :
    shownData s d t = readTarget s t := by
  cases t with
  | reg r => exact if_neg (ne_true_of_eq_false h)
  | byte a =>
    have hbyte : byteUnspecified s a = false := h
    simp [shownData, shownByte, readTarget, hbyte]
  | word a =>
    simp only [targetUnspecified, Bool.or_eq_false_iff] at h
    obtain ⟨⟨⟨h0, h1⟩, h2⟩, h3⟩ := h
    simp [shownData, shownByte, readTarget, loadWord, h0, h1, h2, h3]

section
variable {s : State} {a n : Nat} {rest : List HostOp} {t : Target}

/-- The step of a permitted read takes a draw, and shows it, where some of the target is unspecified
(70_reset_and_hazards.md R246; log entry 5). -/
theorem step_read_draw (h : ServesNext (.read a n) rest s) (ht : target a n = some t ∧ a < 2048)
    (hu : targetUnspecified s t = true) :
    step s = .next { s.afterTaking rest with
      draws := s.draws + 1
      response := some ⟨.okay, shownData s (Config.busyRead s.draws) t⟩ } := by
  rw [← targetUnspecified_afterTaking s rest] at hu
  rw [step_of_servesNext h, serve, serveRead_draw ht.2 ht.1 hu, shownData_afterTaking]
  rfl

/-- The step of a permitted read, idle or BUSY, shows what the target holds where nothing of it is unspecified. -/
theorem step_read_current (h : ServesNext (.read a n) rest s) (ht : target a n = some t ∧ a < 2048)
    (hu : targetUnspecified s t = false) :
    step s = .next { s.afterTaking rest with response := some ⟨.okay, readTarget s t⟩ } := by
  rw [← targetUnspecified_afterTaking s rest] at hu
  rw [step_of_servesNext h, serve, serveRead_okay ht.2 ht.1 hu, readTarget_afterTaking]
  rfl

/-- Both cases at once: the data is what the target shows of the draw, which moves on where it was taken. -/
theorem step_read_shownData (h : ServesNext (.read a n) rest s) (ht : target a n = some t ∧ a < 2048) :
    step s = .next { s.afterTaking rest with
      draws := if targetUnspecified s t = true then s.draws + 1 else s.draws
      response := some ⟨.okay, shownData s (Config.busyRead s.draws) t⟩ } := by
  cases hu : targetUnspecified s t with
  | true => exact step_read_draw h ht hu
  | false =>
    rw [step_read_current h ht hu, shownData_of_not_unspecified hu]
    rfl

end

/-- A word masked to its low bits is its remainder. -/
theorem and_lowMask_eq {w : Nat} (hw : w ≤ 32) (d : Word) :
    d &&& BitVec.ofNat 32 (2 ^ w - 1) = BitVec.ofNat 32 (d.toNat % 2 ^ w) := by
  have hpos : 0 < 2 ^ w := Nat.two_pow_pos w
  have hle : 2 ^ w ≤ 2 ^ 32 := Nat.pow_le_pow_right (by decide) hw
  have hmod : d.toNat % 2 ^ w < 2 ^ w := Nat.mod_lt _ hpos
  apply BitVec.eq_of_toNat_eq
  rw [BitVec.toNat_and, BitVec.toNat_ofNat, BitVec.toNat_ofNat, Nat.mod_eq_of_lt (by omega),
    Nat.mod_eq_of_lt (by omega), Nat.and_two_pow_sub_one_eq_mod]

theorem Reg.width_le (r : Reg) : r.width ≤ 32 := by
  cases r <;> decide

/-- An unspecified register shows the draw in its implemented bits, its reserved bits 0 (10_state.md R21; log entry
5). -/
theorem shownData_reg_of_unspecified {s : State} {r : Reg} (h : regUnspecified s r = true) (d : Word) :
    shownData s d (.reg r) = BitVec.ofNat 32 (d.toNat % 2 ^ r.width) := by
  rw [shownData, if_pos h, and_lowMask_eq r.width_le]

/-- An unspecified byte shows the lowest byte of the draw. -/
theorem shownData_byte_of_unspecified {s : State} {a : Nat} (h : byteUnspecified s a = true) (d : Word) :
    shownData s d (.byte a) = BitVec.ofNat 32 (d.toNat % 256) := by
  apply BitVec.eq_of_toNat_eq
  rw [shownData, shownByte, if_pos h, BitVec.toNat_setWidth, BitVec.toNat_ofNat, BitVec.extractLsb'_toNat,
    Nat.shiftRight_zero]

/-- Byte accesses are permitted in the buffers alone (20_memory.md R64). -/
theorem le_of_permitted_byte {a : Nat} (hp : Spec.permitted a 1 = true) : 0x080 ≤ a := by
  simp [Spec.permitted] at hp
  omega

/-- The bytes of a word are the digits of its number, the lowest first (20_memory.md R67). -/
theorem wordOfBytes_digit (b : Nat → Byte) {k : Nat} (hk : k < 4) :
    (wordOfBytes (b 0) (b 1) (b 2) (b 3)).toNat / 256 ^ k % 256 = (b k).toNat := by
  have h0 := (b 0).isLt
  have h1 := (b 1).isLt
  have h2 := (b 2).isLt
  have h3 := (b 3).isLt
  simp only [wordOfBytes, append_toNat]
  interval_cases k <;> omega

/-- In a word read of a buffer each byte of the write set is that byte of the draw, and the others are current. -/
theorem shownData_word_digit (s : State) (d : Word) (a : Nat) {k : Nat} (hk : k < 4) :
    (shownData s d (.word a)).toNat / 256 ^ k % 256 =
      if byteUnspecified s (a + k) = true then d.toNat / 256 ^ k % 256 else (loadByte s (a + k)).toNat := by
  have hdraw : (d.extractLsb' (8 * k) 8).toNat = d.toNat / 256 ^ k % 256 := by
    rw [BitVec.extractLsb'_toNat, Nat.shiftRight_eq_div_pow, Nat.pow_mul]
  calc (shownData s d (.word a)).toNat / 256 ^ k % 256
    _ = (shownByte s (d.extractLsb' (8 * k) 8) (a + k)).toNat :=
      wordOfBytes_digit (fun k => shownByte s (d.extractLsb' (8 * k) 8) (a + k)) hk
    _ = _ := by rw [shownByte, apply_ite BitVec.toNat, hdraw]

/-- Part of a word is unspecified exactly where one of its four bytes is. -/
theorem targetUnspecified_word_iff {s : State} {a : Nat} :
    targetUnspecified s (.word a) = true ↔ ∃ k < 4, byteUnspecified s (a + k) = true := by
  simp only [targetUnspecified, Bool.or_eq_true, Nat.exists_lt_succ_right, Nat.not_lt_zero, false_and, exists_false,
    false_or, Nat.add_zero]

/-- Settles O55: the write sets by offset are the machine's, and a read shows the draw in that part of its target. -/
theorem busyReadsOfWriteSetAreFree : Obligations.BusyReadsOfWriteSetAreFree := by
  intro s rest hb
  refine ⟨fun e he h => ?register, fun a hp h => ?byte, fun a ha hp h => ?word⟩
  case register =>
    rw [registerRows_eq] at he
    obtain ⟨r, -, rfl⟩ := List.mem_map.1 he
    have ht := target_of_reg r.ofOffset_offset
    rw [unspecifiedAt_reg hb r.ofOffset_offset, BitVec.ofNat_toNat, BitVec.setWidth_eq]
    refine ⟨fun hu => ?_, fun hu => step_read_current h ht hu⟩
    rw [step_read_draw h ht hu, shownData_reg_of_unspecified hu]
  case byte =>
    have ht := target_byte hp
    rw [unspecifiedAt_byte hb (le_of_permitted_byte hp)]
    refine ⟨fun hu => ?_, fun hu => step_read_current h ht hu⟩
    rw [step_read_draw h ht hu, shownData_byte_of_unspecified hu]
  case word =>
    have hfree (k : Nat) : Spec.unspecifiedAt s (a + k) = byteUnspecified s (a + k) :=
      unspecifiedAt_byte hb (by omega)
    simp only [hfree, ← targetUnspecified_word_iff]
    exact ⟨_, step_read_shownData h (target_word ha hp), fun k hk => shownData_word_digit s _ a hk⟩

end Sys2Proof.Machine
end
